-- ==== Sys2Proof/Word.lean ====
section
/-! DEFINITION. The word types of LRTP-RX (spec 00_scope.md rules R8, R9). Their arithmetic stands where it is used:
byte order in `Decode.lean`, the signed distance in `Machine/SeqDist.lean`. -/

namespace Sys2Proof

/-- An octet of a buffer; bit 7 is its most significant bit (R8). -/
abbrev Byte := BitVec 8

/-- `u16` of R9. -/
abbrev U16 := BitVec 16

/-- `u32` of R9. -/
abbrev U32 := BitVec 32

/-- An RTP sequence number, or a FEC base sequence number: the key of a list (00_scope.md section 5). -/
abbrev SeqNum := BitVec 16

/-- The 4-bit `status` of a response (R82). -/
abbrev Status := BitVec 4

end Sys2Proof
end

