-- ==== Sys2Proof/Config.lean ====
section
/-! DEFINITION. What is fixed when a block is built (R6), and the free values: constants with no body, about which no
proof can know anything. -/

namespace Sys2Proof

/-- The OPEN parameters of R6. `MAX_DISTANCE` and `HISTORY_WINDOW` are integers 0..32767, which the type says; the
lower limits of `DATA_MAX` and `PKT_MAX` are `Params.legal`. They are not registers and nothing changes them. -/
structure Params where
  /-- `DATA_MAX`: most entries the DATA list may hold, at least 1 (D2). -/
  dataMax : Nat
  /-- `FEC_MAX`: most entries the FEC list may hold, 0 allowed (D3). -/
  fecMax : Nat
  /-- `MAX_DISTANCE`, 0..32767 (D4). -/
  maxDistance : Fin 32768
  /-- `HISTORY_WINDOW`, 0..32767 (D5). -/
  historyWindow : Fin 32768
  /-- `PKT_MAX`: longest input buffer, at least 16 bytes (D7). -/
  pktMax : Nat
  deriving DecidableEq, Repr

/-- The ranges of R6 that the types do not say. A block built outside them is refused (U5). -/
def Params.legal (p : Params) : Bool :=
  decide (1 ≤ p.dataMax) && decide (16 ≤ p.pktMax)

/-- The parameter condition of R7 under which the order invariants of R31 hold. -/
def Params.ordered (p : Params) : Prop :=
  (p.dataMax - 1) * p.maxDistance.val ≤ 32767 ∧ (p.fecMax - 1) * p.maxDistance.val ≤ 32767

/-- `FEC_PT`, the designated FEC payload type: a named parameter with the value 96 (R6, D6, U1). -/
def Config.fecPt : BitVec 7 := 96

/-- `FEC_HDR_LEN`, the length in bytes of the FEC header (R6). -/
def Config.fecHdrLen : Nat := 16

/-- FREE (log 2): `DATA_MAX - 1` of the block that `State.reset` describes. -/
opaque Config.dataMaxLessOne : Nat

/-- FREE (log 2): `FEC_MAX` of that block. -/
opaque Config.fecMax : Nat

/-- FREE (log 2): `MAX_DISTANCE` of that block. -/
opaque Config.maxDistance : Fin 32768

/-- FREE (log 2): `HISTORY_WINDOW` of that block. -/
opaque Config.historyWindow : Fin 32768

/-- FREE (log 2): `PKT_MAX - 16` of that block. -/
opaque Config.pktMaxLessSixteen : Nat

/-- The parameters of the block that `State.reset` describes: any legal ones. -/
def Config.params : Params :=
  { dataMax := Config.dataMaxLessOne + 1
    fecMax := Config.fecMax
    maxDistance := Config.maxDistance
    historyWindow := Config.historyWindow
    pktMax := Config.pktMaxLessSixteen + 16 }

/-- FREE (log 5): the `k`-th draw of a 16-bit read that ran off the end of the buffer (R54, U4). -/
opaque Config.draw16 : Nat → U16

/-- FREE (log 5): the `k`-th draw of a 32-bit read that ran off the end (R54, U4). -/
opaque Config.draw32 : Nat → U32

/-- FREE (log 5): the `k`-th drawn byte of a byte run that ran off the end (R54, U4). -/
opaque Config.drawByte : Nat → Byte

/-- FREE (log 6): what `MemRead` meets at a byte offset that the buffer does not have, where `strm.len` claims it has
it. R10 gives `MemRead` no meaning there and no run reaches it. -/
opaque Config.noByte : Nat → Byte

/-- FREE (log 7): which of several entries with the cursor's number the cursor refers to. The spec's "the index" is
unique under R31 I2 and undecided where the parameters break I2 (R247). It depends on the stored numbers and the cursor
only, because the rules are deterministic for every parameter value (R7). -/
opaque Config.pickEntry : List SeqNum → SeqNum → Nat

/-- FREE (log 8): the key of a FEC-list entry without a FEC header; R24 gives every entry one. -/
opaque Config.noHeaderBase : SeqNum

/-- FREE (log 8): whether a FEC-list entry without a FEC header is stale. -/
opaque Config.noHeaderStale : Bool

end Sys2Proof
end

