-- ==== Sys2Proof/Syntax.lean ====
section
/-! DEFINITION. The instructions: one constructor for each row of spec/opcode_table.json. The rows with a 3-bit `op`
are the host's commands (R80, R81, R89). The other rows are the words the parsers interpret (R83 to R87), the accepted
FEC header (R131) and the status word of a response (R82). -/

namespace Sys2Proof

/-- The fields of the first 32 bits of an RTP packet: word `w0` and the sequence number (R83). -/
structure RtpW0Seq where
  version : BitVec 2
  padding : Bool
  extension : Bool
  cc : BitVec 4
  marker : Bool
  pt : BitVec 7
  seq : SeqNum
  deriving DecidableEq, Repr

/-- The two words that open the extension (R85); `length` counts bytes. -/
structure RtpExt where
  id : U16
  length : U16
  deriving DecidableEq, Repr

/-- FEC payload offsets 0..3 (R87). -/
structure FecBaseLen where
  snBaseLow : U16
  lengthRecovery : U16
  deriving DecidableEq, Repr

/-- FEC word `w1` (R87). -/
structure FecW1 where
  e : Bool
  ptRecovery : BitVec 7
  mask : BitVec 24
  deriving DecidableEq, Repr

/-- FEC word `w2` (R87). -/
structure FecW2 where
  x : Bool
  d : Bool
  type : BitVec 3
  index : BitVec 3
  offset : Byte
  na : Byte
  snBaseExt : Byte
  deriving DecidableEq, Repr

/-- The free fields of a FEC header in the accepted profile (R131); the other six are fixed by the profile. -/
structure FecAccepted where
  snBaseLow : U16
  lengthRecovery : U16
  ptRecovery : BitVec 7
  tsRecovery : U32
  d : Bool
  offset : Byte
  na : Byte
  deriving DecidableEq, Repr

/-- Every row of the opcode table. In the four commands with a buffer, the operand `len` of R80 is `buf.length`. -/
inductive Instr where
  /-- `READ`, op 000 (R190). -/
  | read
  /-- `ENQ.DATA len buf`, op 001 (R161). -/
  | enqData (buf : List Byte)
  /-- `ENQ.FEC len buf`, op 010 (R164). -/
  | enqFec (buf : List Byte)
  /-- op 011, reserved (R89). -/
  | reserved3
  /-- `DEC.RTP len buf`, op 100 (R110). -/
  | decRtp (buf : List Byte)
  /-- `DEC.FEC len buf`, op 101; `buf` is a payload (R130). -/
  | decFec (buf : List Byte)
  /-- `SEQDIST a b`, op 110 (R153). -/
  | seqdist (a b : SeqNum)
  /-- op 111, reserved (R89). -/
  | reserved7
  /-- Row `RTP.W0+SEQ` (R83, R111). -/
  | rtpW0Seq (f : RtpW0Seq)
  /-- Row `RTP.TS` (R83, R111). -/
  | rtpTs (ts : U32)
  /-- Row `RTP.SSRC` (R83, R111). -/
  | rtpSsrc (ssrc : U32)
  /-- Row `RTP.CSRC[i]`, `i` = 0..14 (R84, R112). -/
  | rtpCsrc (i : Fin 15) (csrc : U32)
  /-- Row `RTP.EXT` (R85, R113). -/
  | rtpExt (f : RtpExt)
  /-- Row `FEC.BASE+LEN` (R87, R130). -/
  | fecBaseLen (f : FecBaseLen)
  /-- Row `FEC.W1` (R87, R130). -/
  | fecW1 (f : FecW1)
  /-- Row `FEC.TSREC` (R87, R130). -/
  | fecTsrec (ts : U32)
  /-- Row `FEC.W2` (R87, R130). -/
  | fecW2 (f : FecW2)
  /-- Row `FEC.ACCEPTED`: the whole header in the accepted profile (R131). -/
  | fecAccepted (f : FecAccepted)
  /-- Row `RESPONSE.STATUS`: `r` and the three code bits (R82). -/
  | responseStatus (r : Bool) (code : BitVec 3)
  deriving DecidableEq, Repr

/-- The rows that are words of a stream, in wire order. A wire word carries no operation code: which row it is follows
from where in the stream it stands (R83 to R87). -/
inductive WireRow where
  | rtpW0Seq
  | rtpTs
  | rtpSsrc
  | rtpCsrc (i : Fin 15)
  | rtpExt
  | fecBaseLen
  | fecW1
  | fecTsrec
  | fecW2
  | fecAccepted
  deriving DecidableEq, Repr

/-- Where a word is met, which is what the decoder must know beside its bits: at the command port, in a stream at the
place of a row, or at the response port. -/
inductive Slot where
  | port
  | wire (row : WireRow)
  | status
  deriving DecidableEq, Repr

/-- The slot at which an instruction's word is met. -/
def Instr.slot : Instr → Slot
  | .read => .port
  | .enqData _ => .port
  | .enqFec _ => .port
  | .reserved3 => .port
  | .decRtp _ => .port
  | .decFec _ => .port
  | .seqdist _ _ => .port
  | .reserved7 => .port
  | .rtpW0Seq _ => .wire .rtpW0Seq
  | .rtpTs _ => .wire .rtpTs
  | .rtpSsrc _ => .wire .rtpSsrc
  | .rtpCsrc i _ => .wire (.rtpCsrc i)
  | .rtpExt _ => .wire .rtpExt
  | .fecBaseLen _ => .wire .fecBaseLen
  | .fecW1 _ => .wire .fecW1
  | .fecTsrec _ => .wire .fecTsrec
  | .fecW2 _ => .wire .fecW2
  | .fecAccepted _ => .wire .fecAccepted
  | .responseStatus _ _ => .status

/-- Why bytes are no instruction at a slot. -/
inductive DecodeError where
  /-- A command frame with no byte: there is no `op`. -/
  | noOp
  /-- The frame ends inside the `len` field. -/
  | shortLength
  /-- The frame holds fewer than `len` bytes of `buf`. -/
  | shortBuffer
  /-- The frame ends inside `a` or `b` of SEQDIST. -/
  | shortOperands
  /-- Fewer bytes than the row has. -/
  | shortWord
  /-- The sixteen bytes are not a header in the accepted profile (R131). -/
  | outsideProfile
  /-- A status code that R82 says is never produced. -/
  | statusNeverProduced
  deriving DecidableEq, Repr

end Sys2Proof
end

