-- ==== Sys2Proof/WellFormed.lean ====
section
/-! DEFINITION. Which instructions have an encoding. -/

namespace Sys2Proof

/-- The nine status codes that R82 gives a meaning; "others: never produced". -/
def statusProduced (w : Status) : Bool :=
  w == 0b0000 || w == 0b0001 || w == 0b0010 || w == 0b0011 ||
  w == 0b1000 || w == 0b1001 || w == 0b1010 || w == 0b1011 || w == 0b1100

/-- The 4-bit status word `rccc` of the table's row RESPONSE.STATUS (R82): bit 3 is `r`. -/
def statusWord (r : Bool) (code : BitVec 3) : Status := BitVec.ofBool r ++ code

/-- An instruction is well formed when it has an encoding. A status must be a code that is produced (R82). A command
has an encoding whatever its buffer, since `len` has as many bits as it needs (R80). Field widths and the range of the
CSRC index are said by the types. -/
def Instr.wellFormed : Instr → Bool
  | .read => true
  | .enqData _ => true
  | .enqFec _ => true
  | .reserved3 => true
  | .decRtp _ => true
  | .decFec _ => true
  | .seqdist _ _ => true
  | .reserved7 => true
  | .rtpW0Seq _ => true
  | .rtpTs _ => true
  | .rtpSsrc _ => true
  | .rtpCsrc _ _ => true
  | .rtpExt _ => true
  | .fecBaseLen _ => true
  | .fecW1 _ => true
  | .fecTsrec _ => true
  | .fecW2 _ => true
  | .fecAccepted _ => true
  | .responseStatus r code => statusProduced (statusWord r code)

end Sys2Proof
end

