-- ==== Sys2Proof/Decode.lean ====
section
/-! DEFINITION. The decoder, total on any bytes, and after it the encoder. Byte order is big-endian (R51) and bits are
packed MSB first (R52). The layout of a command frame is the model's own (log 3); the wire layouts are R83 to R87. -/

namespace Sys2Proof

/-! ### Byte order (R51) and field extraction (R53 `BITS`) -/

/-- The 16-bit word whose byte at the lower offset is `b0` (R51). -/
def be16 (b0 b1 : Byte) : U16 := b0 ++ b1

/-- The 32-bit word whose byte at the lowest offset is `b0` (R51). -/
def be32 (b0 b1 b2 b3 : Byte) : U32 := b0 ++ b1 ++ b2 ++ b3

/-- The bytes of a 16-bit word in offset order (R51). -/
def bytes16 (w : U16) : List Byte := [w.extractLsb' 8 8, w.extractLsb' 0 8]

/-- The bytes of a 32-bit word in offset order (R51). -/
def bytes32 (w : U32) : List Byte :=
  [w.extractLsb' 24 8, w.extractLsb' 16 8, w.extractLsb' 8 8, w.extractLsb' 0 8]

/-- `BITS(w, lo + n - 1, lo)`: the `n` bits of `w` from bit `lo` up (R53, R8). -/
def bitsAt {m : Nat} (w : BitVec m) (lo n : Nat) : BitVec n := w.extractLsb' lo n

/-- `w[i]` of R8. -/
def bitAt {m : Nat} (w : BitVec m) (i : Nat) : Bool := w.getLsbD i

/-! ### The fields of the wire words -/

/-- `vvpxccccmtttttttssssssssssssssss` (R83). -/
def RtpW0Seq.ofWord (w : U32) : RtpW0Seq :=
  { version := bitsAt w 30 2
    padding := bitAt w 29
    extension := bitAt w 28
    cc := bitsAt w 24 4
    marker := bitAt w 23
    pt := bitsAt w 16 7
    seq := bitsAt w 0 16 }

/-- `iiiiiiiiiiiiiiiillllllllllllllll` (R85). -/
def RtpExt.ofWord (w : U32) : RtpExt :=
  { id := bitsAt w 16 16, length := bitsAt w 0 16 }

/-- `bbbbbbbbbbbbbbbbllllllllllllllll` (R87). -/
def FecBaseLen.ofWord (w : U32) : FecBaseLen :=
  { snBaseLow := bitsAt w 16 16, lengthRecovery := bitsAt w 0 16 }

/-- `epppppppmmmmmmmmmmmmmmmmmmmmmmmm` (R87). -/
def FecW1.ofWord (w : U32) : FecW1 :=
  { e := bitAt w 31, ptRecovery := bitsAt w 24 7, mask := bitsAt w 0 24 }

/-- `xdtttiiioooooooonnnnnnnnbbbbbbbb` (R87). -/
def FecW2.ofWord (w : U32) : FecW2 :=
  { x := bitAt w 31
    d := bitAt w 30
    type := bitsAt w 27 3
    index := bitsAt w 24 3
    offset := bitsAt w 16 8
    na := bitsAt w 8 8
    snBaseExt := bitsAt w 0 8 }

/-- The free fields of the four header words, when the fixed bits of the table's row FEC.ACCEPTED stand as the profile
of R131 fixes them. -/
def FecAccepted.ofWords? (wBase w1 wTs w2 : U32) : Option FecAccepted :=
  let b := FecBaseLen.ofWord wBase
  let f1 := FecW1.ofWord w1
  let f2 := FecW2.ofWord w2
  if f1.e && f1.mask == 0 && !f2.x && f2.type == 0 && f2.index == 0 && f2.snBaseExt == 0 then
    some { snBaseLow := b.snBaseLow, lengthRecovery := b.lengthRecovery, ptRecovery := f1.ptRecovery,
           tsRecovery := wTs, d := f2.d, offset := f2.offset, na := f2.na }
  else none

/-! ### The decoder -/

/-- An instruction and the bytes after it, or why there is none. -/
abbrev DecodeResult := Except DecodeError (Instr × List Byte)

/-- The operand `len` of R80, as wide as its value needs: seven bits a byte, the least significant seven first, and bit
7 set in every byte but the last (log 3). -/
def decodeLen : List Byte → Option (Nat × List Byte)
  | [] => none
  | b :: rest =>
    if bitAt b 7 then
      match decodeLen rest with
      | some (high, more) => some ((bitsAt b 0 7).toNat + 128 * high, more)
      | none => none
    else some ((bitsAt b 0 7).toNat, rest)

/-- The operands `len` and `buf` of R80: `len`, then `len` bytes. -/
def decodeBuf (mk : List Byte → Instr) (bytes : List Byte) : DecodeResult :=
  match decodeLen bytes with
  | some (len, rest) =>
    if len ≤ rest.length then .ok (mk (rest.take len), rest.drop len) else .error .shortBuffer
  | none => .error .shortLength

/-- The operands `a` and `b` of SEQDIST: two `u16`, each most significant byte first (R80, log 3). -/
def decodeSeqdist : List Byte → DecodeResult
  | a1 :: a0 :: b1 :: b0 :: rest => .ok (.seqdist (be16 a1 a0) (be16 b1 b0), rest)
  | _ => .error .shortOperands

/-- A command frame: its first byte holds `op` in bits 2..0 (R81; the table's mask is 0x7), its other bits are not
looked at (log 3). -/
def decodePort : List Byte → DecodeResult
  | [] => .error .noOp
  | b :: rest =>
    match (bitsAt b 0 3).toNat with
    | 0 => .ok (.read, rest)
    | 1 => decodeBuf .enqData rest
    | 2 => decodeBuf .enqFec rest
    | 3 => .ok (.reserved3, rest)
    | 4 => decodeBuf .decRtp rest
    | 5 => decodeBuf .decFec rest
    | 6 => decodeSeqdist rest
    | _ => .ok (.reserved7, rest)

/-- A row of one 32-bit word. -/
def decodeWord (mk : U32 → Instr) : List Byte → DecodeResult
  | b0 :: b1 :: b2 :: b3 :: rest => .ok (mk (be32 b0 b1 b2 b3), rest)
  | _ => .error .shortWord

/-- The row FEC.ACCEPTED: four words, sixteen bytes. -/
def decodeAccepted : List Byte → DecodeResult
  | a0 :: a1 :: a2 :: a3 :: b0 :: b1 :: b2 :: b3 :: c0 :: c1 :: c2 :: c3 :: d0 :: d1 :: d2 :: d3 :: rest =>
    match FecAccepted.ofWords? (be32 a0 a1 a2 a3) (be32 b0 b1 b2 b3) (be32 c0 c1 c2 c3) (be32 d0 d1 d2 d3) with
    | some f => .ok (.fecAccepted f, rest)
    | none => .error .outsideProfile
  | _ => .error .shortWord

/-- A word of a stream, at the place of its row (R83 to R87). -/
def decodeRow : WireRow → List Byte → DecodeResult
  | .rtpW0Seq => decodeWord (fun w => .rtpW0Seq (RtpW0Seq.ofWord w))
  | .rtpTs => decodeWord .rtpTs
  | .rtpSsrc => decodeWord .rtpSsrc
  | .rtpCsrc i => decodeWord (.rtpCsrc i)
  | .rtpExt => decodeWord (fun w => .rtpExt (RtpExt.ofWord w))
  | .fecBaseLen => decodeWord (fun w => .fecBaseLen (FecBaseLen.ofWord w))
  | .fecW1 => decodeWord (fun w => .fecW1 (FecW1.ofWord w))
  | .fecTsrec => decodeWord .fecTsrec
  | .fecW2 => decodeWord (fun w => .fecW2 (FecW2.ofWord w))
  | .fecAccepted => decodeAccepted

/-- A response's status word, in bits 3..0 of one byte (R82); a code that is never produced is none. -/
def decodeStatus : List Byte → DecodeResult
  | b :: rest =>
    if statusProduced (bitsAt b 0 4) then .ok (.responseStatus (bitAt b 3) (bitsAt b 0 3), rest)
    else .error .statusNeverProduced
  | [] => .error .shortWord

/-- The decoder: the instruction that `bytes` begin with at a slot, and the bytes after it. -/
def decode : Slot → List Byte → DecodeResult
  | .port => decodePort
  | .wire row => decodeRow row
  | .status => decodeStatus

/-! ### The encoder, from the same tables -/

/-- The word of R83. -/
def RtpW0Seq.toWord (f : RtpW0Seq) : U32 :=
  f.version ++ BitVec.ofBool f.padding ++ BitVec.ofBool f.extension ++ f.cc ++ BitVec.ofBool f.marker ++ f.pt ++ f.seq

/-- The word of R85. -/
def RtpExt.toWord (f : RtpExt) : U32 := f.id ++ f.length

/-- The word of R87, payload offset 0. -/
def FecBaseLen.toWord (f : FecBaseLen) : U32 := f.snBaseLow ++ f.lengthRecovery

/-- The word `w1` of R87. -/
def FecW1.toWord (f : FecW1) : U32 := BitVec.ofBool f.e ++ f.ptRecovery ++ f.mask

/-- The word `w2` of R87. -/
def FecW2.toWord (f : FecW2) : U32 :=
  BitVec.ofBool f.x ++ BitVec.ofBool f.d ++ f.type ++ f.index ++ f.offset ++ f.na ++ f.snBaseExt

/-- The sixteen bytes of the row FEC.ACCEPTED (R131). -/
def FecAccepted.toBytes (f : FecAccepted) : List Byte :=
  bytes32 (FecBaseLen.toWord ⟨f.snBaseLow, f.lengthRecovery⟩) ++ bytes32 (FecW1.toWord ⟨true, f.ptRecovery, 0⟩) ++
  bytes32 f.tsRecovery ++ bytes32 (FecW2.toWord ⟨false, f.d, 0, 0, f.offset, f.na, 0⟩)

/-- The bytes of the operand `len`, at most `more` beyond the first (log 3). -/
def encodeLenWithin : (more len : Nat) → List Byte
  | 0, len => [BitVec.ofNat 8 (len % 128)]
  | more + 1, len =>
    if len < 128 then [BitVec.ofNat 8 len]
    else BitVec.ofNat 8 (128 + len % 128) :: encodeLenWithin more (len / 128)

/-- The bytes of the operand `len`: fewer than `len` bytes beyond the first are always enough. -/
def encodeLen (len : Nat) : List Byte := encodeLenWithin len len

/-- A command frame with the operands `len` and `buf`. -/
def encodeBuf (op : Byte) (buf : List Byte) : List Byte := op :: (encodeLen buf.length ++ buf)

/-- The bytes of a well-formed instruction. -/
def encode : Instr → List Byte
  | .read => [0b000]
  | .enqData buf => encodeBuf 0b001 buf
  | .enqFec buf => encodeBuf 0b010 buf
  | .reserved3 => [0b011]
  | .decRtp buf => encodeBuf 0b100 buf
  | .decFec buf => encodeBuf 0b101 buf
  | .seqdist a b => 0b110 :: (bytes16 a ++ bytes16 b)
  | .reserved7 => [0b111]
  | .rtpW0Seq f => bytes32 f.toWord
  | .rtpTs ts => bytes32 ts
  | .rtpSsrc ssrc => bytes32 ssrc
  | .rtpCsrc _ csrc => bytes32 csrc
  | .rtpExt f => bytes32 f.toWord
  | .fecBaseLen f => bytes32 f.toWord
  | .fecW1 f => bytes32 f.toWord
  | .fecTsrec ts => bytes32 ts
  | .fecW2 f => bytes32 f.toWord
  | .fecAccepted f => f.toBytes
  | .responseStatus r code => [(0 : BitVec 4) ++ statusWord r code]

/-! ### The host's two readings of a table word -/

/-- A command frame from one byte of the table and zeros above it: four zero bytes are the longest operands (`a` and
`b`), and a zero `len` is one byte and takes no byte of `buf`. -/
def tableFrame (w : Nat) : List Byte := [BitVec.ofNat 8 w, 0, 0, 0, 0]

/-- The bytes of a 128-bit row, bit 127 first (the row FEC.ACCEPTED is written MSB first). -/
def tableHeader (w : Nat) : List Byte :=
  bytes32 (BitVec.ofNat 32 (w >>> 96)) ++ bytes32 (BitVec.ofNat 32 (w >>> 64)) ++
  bytes32 (BitVec.ofNat 32 (w >>> 32)) ++ bytes32 (BitVec.ofNat 32 w)

/-- The instruction the decoder reads from a table row's word (log 4): up to 8 bits are a command frame, up to 32 bits
the first word of an RTP packet, more are a FEC header. A 32-bit wire word carries no code of its own, so it is read at
the place where an RTP packet begins. -/
def decodeTableWord (nbits w : Nat) : Option Instr :=
  let r :=
    if nbits ≤ 8 then decodePort (tableFrame w)
    else if nbits ≤ 32 then decodeRow .rtpW0Seq (bytes32 (BitVec.ofNat 32 w))
    else decodeRow .fecAccepted (tableHeader w)
  match r with
  | .ok (i, _) => some i
  | .error _ => none

end Sys2Proof
end

