-- ==== Sys2Proof/Machine/State.lean ====
section
/-! DEFINITION. The state of LRTP-RX (10_state.md), the responses it gives, the reasons a step can stop, and reset. -/

namespace Sys2Proof.Machine

/-! ### Records (R21, R22) -/

/-- `FecHeader`: the thirteen wire fields (R22), and the transient registers `fec.*`. -/
structure FecHeader where
  snBaseLow : U16
  lengthRecovery : U16
  e : Bool
  ptRecovery : BitVec 7
  mask : BitVec 24
  tsRecovery : U32
  x : Bool
  d : Bool
  type : BitVec 3
  index : BitVec 3
  offset : Byte
  na : Byte
  snBaseExt : Byte
  deriving DecidableEq, Repr

/-- The optional extension of a packet: id, length in bytes, opaque bytes (R21). -/
structure Extension where
  id : U16
  length : U16
  data : List Byte
  deriving DecidableEq, Repr

/-- `Packet`: one decoded RTP unit (R21). `fec` is present exactly in packets stored in the FEC list. -/
structure Packet where
  version : BitVec 2
  padding : Bool
  extension : Bool
  cc : BitVec 4
  marker : Bool
  pt : BitVec 7
  seq : SeqNum
  ts : U32
  ssrc : U32
  csrc : List U32
  ext : Option Extension
  payload : List Byte
  fec : Option FecHeader
  deriving DecidableEq, Repr

/-! ### Transient registers (R27, R28) -/

/-- The stream reader registers `strm.buf`, `strm.len`, `strm.pos`, `strm.ok` (R27). -/
structure Stream where
  buf : List Byte
  len : Nat
  pos : Nat
  ok : Bool
  deriving DecidableEq, Repr

/-- The decoded-packet registers `pkt.*`, with the file of fifteen CSRC registers (R28). -/
structure PktRegs where
  version : BitVec 2
  padding : Bool
  extension : Bool
  cc : BitVec 4
  marker : Bool
  pt : BitVec 7
  seq : SeqNum
  ts : U32
  ssrc : U32
  csrc : Vector U32 15
  ext : Option Extension
  payload : List Byte
  fec : Option FecHeader
  deriving DecidableEq, Repr

/-- What the transient registers read as between commands. R33 gives them no value and no rule reads them (log 9). -/
def Stream.idle : Stream := { buf := [], len := 0, pos := 0, ok := true }

/-- See `Stream.idle`. -/
def PktRegs.idle : PktRegs :=
  { version := 0, padding := false, extension := false, cc := 0, marker := false, pt := 0, seq := 0, ts := 0,
    ssrc := 0, csrc := Vector.replicate 15 0, ext := none, payload := [], fec := none }

/-- See `Stream.idle`. -/
def FecHeader.idle : FecHeader :=
  { snBaseLow := 0, lengthRecovery := 0, e := false, ptRecovery := 0, mask := 0, tsRecovery := 0, x := false,
    d := false, type := 0, index := 0, offset := 0, na := 0, snBaseExt := 0 }

/-! ### Outcomes and responses (R11, R82) -/

/-- The five reasons of a rejection (R210). -/
inductive Reason where
  | truncated
  | malformed
  | unsupportedProfile
  | capacityExceeded
  | outOfWindow
  deriving DecidableEq, Repr

/-- The `value` of a response (R82). -/
inductive Value where
  /-- No value (`NotReady`). -/
  | none
  /-- Bytes consumed; 0 on a rejection. -/
  | count (n : Nat)
  /-- The record of `DEC.RTP`. -/
  | packet (p : Packet)
  /-- The record of `DEC.FEC`. -/
  | fecHeader (h : FecHeader)
  /-- The `s16` of `SEQDIST`. -/
  | distance (d : Int)
  /-- The payload of `Delivered`: its length is the byte count `n`. -/
  | bytes (bs : List Byte)
  deriving DecidableEq, Repr

/-- The closed set of outcomes of R11. -/
inductive CmdOutcome where
  | ok (v : Value)
  | accepted (consumed : Nat)
  | duplicateIgnored (consumed : Nat)
  | delivered (payload : List Byte)
  | notReady
  | rejected (r : Reason)
  deriving DecidableEq, Repr

/-- A response: the pair of `status` and `value` (R82). -/
structure Response where
  status : Status
  value : Value
  deriving DecidableEq, Repr

/-! ### Sequencing and the host's side -/

/-- Which word the block takes next (log 4). Between commands it is `port`. The other three are places inside a decode,
where the spec's own sequencing is `strm.pos` (R29). -/
inductive Phase where
  /-- A command boundary: the next thing taken is what the host presents. -/
  | port
  /-- In a decode: the next word of the stream is laid out as this row. -/
  | wire (row : WireRow)
  /-- In a decode: the headers are read and the payload step comes next (R114). -/
  | payload
  /-- The operation is done and this status word is to be driven (R82). -/
  | respond (w : Status)
  deriving DecidableEq, Repr

/-- What the host presents at a command boundary: a command frame, or the reset input (R240). -/
inductive HostEvent where
  | command (frame : List Byte)
  | reset
  deriving DecidableEq, Repr

/-- The whole state. Plain data. -/
structure State where
  /-- The parameters of R6: the block this state is a state of. No step changes them (log 2). -/
  params : Params
  /-- `data`, the DATA list, oldest first (R23). -/
  data : List Packet
  /-- `fecl`, the FEC list, oldest first (R24). -/
  fecl : List Packet
  /-- `data_count` (R25). -/
  dataCount : Nat
  /-- `fec_count` (R25). -/
  fecCount : Nat
  /-- `cursor`: the number of the last delivered DATA packet, absent until the first delivery (R26). -/
  cursor : Option SeqNum
  /-- `strm.*` (R27). -/
  strm : Stream
  /-- `pkt.*` (R28). -/
  pkt : PktRegs
  /-- `fec.*` (R22). -/
  fec : FecHeader
  /-- Which word the block takes next (model's own, log 4). -/
  phase : Phase
  /-- The value that goes with the status word being driven (model's own, log 4). -/
  value : Value
  /-- The response to the last command; none before the first one (R82, log 10). -/
  response : Option Response
  /-- What the host is going to present, one event at a time, each after the response to the one before (R242, log 10). -/
  pending : List HostEvent
  /-- How many free values have been drawn (model's own, log 5). -/
  draws : Nat
  deriving DecidableEq, Repr

/-! ### Why a step stops -/

/-- The faults. -/
inductive Fault where
  /-- Raised by `READ` when the cursor is set and no DATA entry has its number. R190 says the entry exists (R31 I4), so
  the spec gives no effect; no run from reset gets here. Safe: the model stops where the spec has no case. -/
  | cursorEntryMissing
  deriving DecidableEq, Repr

/-- The refusals. -/
inductive Refusal where
  /-- Raised by `exec` for a row that has no meaning yet. Safe. -/
  | notModelled (mnemonic : String)
  /-- Raised by the two reserved operation codes, which a model refuses (R89, U3). Safe. -/
  | reservedOperation (op : BitVec 3)
  /-- Raised by the four commands with a buffer when it is longer than `PKT_MAX`, which a model refuses (R59, U2). Safe. -/
  | bufferTooLong (len : Nat)
  /-- Raised by `step` when the block's parameters are outside the ranges of R6, which a model refuses (U5). Safe. -/
  | parametersOutOfRange
  /-- Raised by `RESPONSE.STATUS` for a code that R82 says is never produced. Safe. -/
  | statusNeverProduced (w : Status)
  /-- Raised by `step` for a frame that holds no command: the transport is the model's own (log 3). Safe. -/
  | undecodable (e : DecodeError)
  deriving DecidableEq, Repr

/-! ### Reset (R33, R240) -/

/-- The machine right after reset: both lists empty, both counts 0, the cursor absent (R33). The transient registers
are idle (log 9); nothing has been presented, answered or drawn. -/
def State.reset : State :=
  { params := Config.params, data := [], fecl := [], dataCount := 0, fecCount := 0, cursor := none,
    strm := Stream.idle, pkt := PktRegs.idle, fec := FecHeader.idle, phase := .port, value := .none,
    response := none, pending := [], draws := 0 }

/-! ### Named updates; their field lemmas are in `Laws/State.lean` -/

def State.setData (l : List Packet) (n : Nat) (s : State) : State := { s with data := l, dataCount := n }
def State.setFecl (l : List Packet) (n : Nat) (s : State) : State := { s with fecl := l, fecCount := n }
def State.setCursor (c : Option SeqNum) (s : State) : State := { s with cursor := c }
def State.setStrm (x : Stream) (s : State) : State := { s with strm := x }
def State.setPkt (x : PktRegs) (s : State) : State := { s with pkt := x }
def State.setFec (x : FecHeader) (s : State) : State := { s with fec := x }
def State.setPhase (x : Phase) (s : State) : State := { s with phase := x }
def State.setValue (x : Value) (s : State) : State := { s with value := x }
def State.setResponse (x : Option Response) (s : State) : State := { s with response := x }
def State.setPending (x : List HostEvent) (s : State) : State := { s with pending := x }
def State.setDraws (n : Nat) (s : State) : State := { s with draws := n }

end Sys2Proof.Machine
end

