-- ==== Sys2Proof/Machine/Flags.lean ====
section
/-! DEFINITION. The block's only flag, `strm.ok` (R27, R29). -/

namespace Sys2Proof.Machine

/-- `valid()`: 1 = no read has run off the end (R53). -/
def valid (s : State) : Bool := s.strm.ok

/-- `out_of_bounds()`: `strm.ok <- 0; strm.pos <- strm.len` (R54). -/
def outOfBounds (s : State) : State := s.setStrm { s.strm with ok := false, pos := s.strm.len }

end Sys2Proof.Machine
end

