-- ==== Sys2Proof/Machine/Operands.lean ====
section
/-! DEFINITION. The stream reader: the only way the decoders read a buffer (20_memory.md rules R51, R53, R54). -/

namespace Sys2Proof.Machine

/-- Open a reader over `buf`: `strm.pos` = 0 and `strm.ok` = 1 (R27, R110, R130). -/
def openStream (buf : List Byte) (s : State) : State :=
  s.setStrm { buf := buf, len := buf.length, pos := 0, ok := true }

/-- `buf[addr]` of the current input buffer (R10). -/
def memByte (s : State) (addr : Nat) : Byte := s.strm.buf[addr]?.getD (Config.noByte addr)

/-- `MemRead(addr, 2)` (R10, R51). -/
def memRead16 (s : State) (addr : Nat) : U16 := be16 (memByte s addr) (memByte s (addr + 1))

/-- `MemRead(addr, 4)` (R10, R51). -/
def memRead32 (s : State) (addr : Nat) : U32 :=
  be32 (memByte s addr) (memByte s (addr + 1)) (memByte s (addr + 2)) (memByte s (addr + 3))

/-- `remaining()` (R53). -/
def remaining (s : State) : Nat := s.strm.len - s.strm.pos

/-- `strm.pos <- strm.pos + n`. -/
def advance (n : Nat) (s : State) : State := s.setStrm { s.strm with pos := s.strm.pos + n }

/-- Count `n` free values as drawn (log 5). -/
def countDraws (n : Nat) (s : State) : State := s.setDraws (s.draws + n)

/-- `rd16()` (R53); off the end it returns a draw (R54). -/
def rd16 (s : State) : U16 × State :=
  if s.strm.pos + 2 ≤ s.strm.len then (memRead16 s s.strm.pos, advance 2 s)
  else (Config.draw16 s.draws, countDraws 1 (outOfBounds s))

/-- `rd32()` (R53); off the end it returns a draw (R54). -/
def rd32 (s : State) : U32 × State :=
  if s.strm.pos + 4 ≤ s.strm.len then (memRead32 s s.strm.pos, advance 4 s)
  else (Config.draw32 s.draws, countDraws 1 (outOfBounds s))

/-- `rdbytes(n)` (R53); off the end it returns `n` drawn bytes (R54). -/
def rdbytes (n : Nat) (s : State) : List Byte × State :=
  if s.strm.pos + n ≤ s.strm.len then ((List.range' s.strm.pos n).map (memByte s), advance n s)
  else ((List.range' s.draws n).map Config.drawByte, countDraws n (outOfBounds s))

/-- Two 16-bit reads in a row, as one 32-bit word of a table row (R56: these rows are read as two `u16`). -/
def rdPair (s : State) : U32 × State :=
  let hi := rd16 s
  let lo := rd16 hi.2
  (hi.1 ++ lo.1, lo.2)

end Sys2Proof.Machine
end

