-- ==== Sys2Proof/Machine/Ops.lean ====
section
/-! DEFINITION. What the commands share: the end of a command and its response (R82), the rejection that stands for an
exception (R210 to R215), the list primitives (R10), and reset (R240). -/

namespace Sys2Proof.Machine

/-! ### Responses (R82, R211) -/

/-- The status code of a reason (R211). -/
def Reason.status : Reason → Status
  | .truncated => 0b1000
  | .malformed => 0b1001
  | .unsupportedProfile => 0b1010
  | .capacityExceeded => 0b1011
  | .outOfWindow => 0b1100

/-- The status code of an outcome (R82); `Ok` and `Accepted` share one. -/
def CmdOutcome.status : CmdOutcome → Status
  | .ok _ => 0b0000
  | .accepted _ => 0b0000
  | .duplicateIgnored _ => 0b0001
  | .delivered _ => 0b0010
  | .notReady => 0b0011
  | .rejected r => r.status

/-- The value of an outcome (R82). -/
def CmdOutcome.value : CmdOutcome → Value
  | .ok v => v
  | .accepted n => .count n
  | .duplicateIgnored n => .count n
  | .delivered bs => .bytes bs
  | .notReady => .none
  | .rejected _ => .count 0

/-- The transient registers have no value between commands (R20), and a rejection discards them (R214): they go back
to what they read as after reset (log 9). -/
def discardTransients (s : State) : State :=
  ((((s.setStrm Stream.idle).setPkt PktRegs.idle).setFec FecHeader.idle).setValue .none).setPhase .port

/-- The value that R82 puts beside a status word: 0 with bit 3 set, none with `NotReady`, else the operation's own. -/
def valueBeside (w : Status) (v : Value) : Value :=
  if w.msb then .count 0 else if w = 0b0011 then .none else v

/-- Drive the status word: the response is given and the block is at a command boundary (R82, R215). -/
def driveStatus (w : Status) (s : State) : State :=
  discardTransients (s.setResponse (some { status := w, value := valueBeside w s.value }))

/-- The end of a command: its outcome becomes the response. -/
def finish (o : CmdOutcome) (s : State) : State := driveStatus o.status (s.setValue o.value)

/-- `raise E` inside a command: the outcome is `Rejected(E)`, nothing is saved and control goes nowhere (R10, R214).
It is called on a state whose persistent part the command has not written. -/
def reject (r : Reason) (s : State) : State := finish (.rejected r) s

/-- What a decode step ends in: the next state of the decode, or a raised reason. -/
inductive Decoded where
  | done (s : State)
  | raised (r : Reason) (s : State)
  deriving DecidableEq, Repr

/-- `raise E` in a decode that goes word by word: the rejection's status is the next word to be driven (log 4). -/
def raiseAt (r : Reason) (s : State) : State := (s.setValue (.count 0)).setPhase (.respond r.status)

/-- `return Ok(v)` in a decode that goes word by word (log 4). -/
def returnAt (v : Value) (s : State) : State := (s.setValue v).setPhase (.respond 0b0000)

/-! ### List primitives (R10) -/

/-- `insert(L, i, e)`: `e` becomes `L[i]`, later entries move one place toward the tail. -/
def insertAt {α : Type} (l : List α) (i : Nat) (e : α) : List α := l.take i ++ e :: l.drop i

/-- The loop of both evictions: while the front entry is to go, remove it and lower the count by one (R192, R193). -/
def evictWhile {α : Type} (goes : α → Bool) : List α → Nat → List α × Nat
  | [], n => ([], n)
  | e :: rest, n => if goes e then evictWhile goes rest (n - 1) else (e :: rest, n)

/-! ### Status outputs (R30) and reset (R240) -/

/-- The read-only output `DATA_COUNT`. -/
def dataCountOutput (s : State) : Nat := s.dataCount

/-- The read-only output `FEC_COUNT`. -/
def fecCountOutput (s : State) : Nat := s.fecCount

/-- The reset input between commands: both stores empty, both counts 0, the cursor absent (R240, R33). The parameters
stay (R33), the host's events stay, and no response stands. -/
def applyReset (s : State) : State :=
  (discardTransients (((s.setData [] 0).setFecl [] 0).setCursor none)).setResponse none

end Sys2Proof.Machine
end

