-- ==== Sys2Proof/Machine/SeqDist.lean ====
section
/-! DEFINITION. The sequence-number distance comparator (42_seqdist.md). -/

namespace Sys2Proof.Machine

/-- `to_s16` of R9: a 16-bit pattern read as two's complement. -/
def toS16 (v : U16) : Int := if v.toNat ≤ 32767 then (v.toNat : Int) else (v.toNat : Int) - 65536

/-- `dist(a, b)`: subtract with wrap-around, then read as signed (R150). -/
def dist (a b : SeqNum) : Int := toS16 (a - b)

/-- `absd(d)`, over the integers: the magnitude of -32768 is 32768 (R151). -/
def absd (d : Int) : Int := if d < 0 then -d else d

/-- `SEQDIST` (R153). -/
def execSeqdist (a b : SeqNum) (s : State) : Host.Outcome State Fault Refusal :=
  .next (finish (.ok (.distance (dist a b))) s)

end Sys2Proof.Machine
end

