-- ==== Sys2Proof/Machine/RtpDecode.lean ====
section
/-! DEFINITION. The RTP header parser (40_rtp_header_decode.md). Each step writes the registers `pkt.*` from one word
of the stream; the table's wire rows (`Machine/Wire.lean`) and the commands use the same steps. -/

namespace Sys2Proof.Machine

/-! ### What one word writes (R111, R112) -/

/-- The six fields of `w0`, and `seq` (R111). -/
def latchRtpW0Seq (f : RtpW0Seq) (s : State) : State :=
  s.setPkt { s.pkt with version := f.version, padding := f.padding, extension := f.extension, cc := f.cc,
                        marker := f.marker, pt := f.pt, seq := f.seq }

/-- `pkt.ts` (R111). -/
def latchRtpTs (ts : U32) (s : State) : State := s.setPkt { s.pkt with ts := ts }

/-- `pkt.ssrc` (R111). -/
def latchRtpSsrc (ssrc : U32) (s : State) : State := s.setPkt { s.pkt with ssrc := ssrc }

/-- `pkt.csrc[i]` (R112). -/
def latchRtpCsrc (i : Nat) (csrc : U32) (s : State) : State :=
  s.setPkt { s.pkt with csrc := s.pkt.csrc.setIfInBounds i csrc }

/-- `pkt.ext <- none` (R113, `extension = 0`). -/
def clearRtpExt (s : State) : State := s.setPkt { s.pkt with ext := none }

/-- The extension after its two words: `L > remaining()` raises `Truncated` at once, else `L` bytes are copied (R113). -/
def latchRtpExt (f : RtpExt) (s : State) : Decoded :=
  if f.length.toNat > remaining s then .raised .truncated s
  else
    let r := rdbytes f.length.toNat s
    .done (r.2.setPkt { r.2.pkt with ext := some { id := f.id, length := f.length, data := r.1 } })

/-! ### The steps of DEC.RTP -/

/-- R111: the fixed header. -/
def rtpFixedHeader (s : State) : State :=
  let w := rdPair s
  let s1 := latchRtpW0Seq (RtpW0Seq.ofWord w.1) w.2
  let ts := rd32 s1
  let s2 := latchRtpTs ts.1 ts.2
  let ssrc := rd32 s2
  latchRtpSsrc ssrc.1 ssrc.2

/-- R112: `n` more CSRC identifiers, the next of them into `pkt.csrc[i]`. -/
def rtpCsrcList : (n i : Nat) → State → State
  | 0, _, s => s
  | n + 1, i, s =>
    let c := rd32 s
    rtpCsrcList n (i + 1) (latchRtpCsrc i c.1 c.2)

/-- R113: the extension, if the flag is set. -/
def rtpExtension (s : State) : Decoded :=
  if s.pkt.extension then
    let w := rdPair s
    latchRtpExt (RtpExt.ofWord w.1) w.2
  else .done (clearRtpExt s)

/-- R115: what `padding` leaves of the raw payload, or `Malformed`. -/
def paddingTrim (padding : Bool) (raw : List Byte) : Except Reason (List Byte) :=
  if padding then
    match raw.getLast? with
    | none => .error .malformed
    | some t => if t.toNat > raw.length then .error .malformed else .ok (raw.take (raw.length - t.toNat))
  else .ok raw

/-- R114 and R115: the payload, the one validity check, the padding trim, and `pkt.fec <- none`. -/
def rtpPayload (s : State) : Decoded :=
  let raw := rdbytes (remaining s) s
  if valid raw.2 then
    match paddingTrim raw.2.pkt.padding raw.1 with
    | .error r => .raised r raw.2
    | .ok payload => .done (raw.2.setPkt { raw.2.pkt with payload := payload, fec := none })
  else .raised .truncated raw.2

/-- R110, on a stream just opened: the steps in the order of the pseudocode. -/
def rtpDecode (s : State) : Decoded :=
  let s1 := rtpFixedHeader s
  let s2 := rtpCsrcList s1.pkt.cc.toNat 0 s1
  match rtpExtension s2 with
  | .raised r s3 => .raised r s3
  | .done s3 => rtpPayload s3

/-- The record that the registers `pkt.*` hold: of the CSRC file the first `cc` are defined (R28, R116). -/
def PktRegs.packet (r : PktRegs) : Packet :=
  { version := r.version, padding := r.padding, extension := r.extension, cc := r.cc, marker := r.marker, pt := r.pt,
    seq := r.seq, ts := r.ts, ssrc := r.ssrc, csrc := r.csrc.toList.take r.cc.toNat, ext := r.ext,
    payload := r.payload, fec := r.fec }

/-- `DEC.RTP` as a command (R110, R116). -/
def decRtp (buf : List Byte) (s : State) : State :=
  match rtpDecode (openStream buf s) with
  | .raised r s1 => reject r s1
  | .done s1 => finish (.ok (.packet s1.pkt.packet)) s1

/-- `DEC.RTP`; a buffer longer than `PKT_MAX` is refused (R59, U2). -/
def execDecRtp (buf : List Byte) (s : State) : Host.Outcome State Fault Refusal :=
  if buf.length ≤ s.params.pktMax then .next (decRtp buf s) else .refused (.bufferTooLong buf.length)

end Sys2Proof.Machine
end

