-- ==== Sys2Proof/Machine/FecDecode.lean ====
section
/-! DEFINITION. The FEC payload header parser and the three functions of the FEC path (41_fec_header_decode.md). -/

namespace Sys2Proof.Machine

/-! ### What one word writes (R130) -/

/-- `fec.sn_base_low` and `fec.length_recovery`. -/
def latchFecBaseLen (f : FecBaseLen) (s : State) : State :=
  s.setFec { s.fec with snBaseLow := f.snBaseLow, lengthRecovery := f.lengthRecovery }

/-- The fields of `w1`. -/
def latchFecW1 (f : FecW1) (s : State) : State :=
  s.setFec { s.fec with e := f.e, ptRecovery := f.ptRecovery, mask := f.mask }

/-- `fec.ts_recovery`. -/
def latchFecTsrec (ts : U32) (s : State) : State := s.setFec { s.fec with tsRecovery := ts }

/-- The fields of `w2`. -/
def latchFecW2 (f : FecW2) (s : State) : State :=
  s.setFec { s.fec with x := f.x, d := f.d, type := f.type, index := f.index, offset := f.offset, na := f.na,
                        snBaseExt := f.snBaseExt }

/-- The five reads of R130, on a stream just opened. -/
def fecWords (s : State) : State :=
  let w0 := rdPair s
  let s1 := latchFecBaseLen (FecBaseLen.ofWord w0.1) w0.2
  let w1 := rd32 s1
  let s2 := latchFecW1 (FecW1.ofWord w1.1) w1.2
  let ts := rd32 s2
  let s3 := latchFecTsrec ts.1 ts.2
  let w2 := rd32 s3
  latchFecW2 (FecW2.ofWord w2.1) w2.2

/-- R130: a payload shorter than the header is `Truncated`; else a reader is opened over it and the fields are read. -/
def fecDecode (payload : List Byte) (s : State) : Decoded :=
  if payload.length < Config.fecHdrLen then .raised .truncated s else .done (fecWords (openStream payload s))

/-- `FEC.PROFILE` (R131). -/
def fecProfile (h : FecHeader) : Bool :=
  !h.x && h.mask == 0 && h.type == 0 && h.index == 0 && h.snBaseExt == 0 && h.e

/-- `FEC.LAST`: over the integers, reduced once (R132). -/
def fecLast (h : FecHeader) : SeqNum :=
  BitVec.ofInt 16 ((h.snBaseLow.toNat : Int) + (h.offset.toNat : Int) * ((h.na.toNat : Int) - 1))

/-- `FEC.STALE` (R133). -/
def fecStale (h : FecHeader) (c : SeqNum) : Bool := decide (dist (fecLast h) c ≤ 0)

/-- The key of a FEC-list entry, `fec.sn_base_low` (R24). -/
def fecKey (p : Packet) : SeqNum :=
  match p.fec with
  | some h => h.snBaseLow
  | none => Config.noHeaderBase

/-- Whether a FEC-list entry's range is at or before `c` (R193). -/
def fecEntryStale (c : SeqNum) (p : Packet) : Bool :=
  match p.fec with
  | some h => fecStale h c
  | none => Config.noHeaderStale

/-- `DEC.FEC` as a command (R130). -/
def decFec (buf : List Byte) (s : State) : State :=
  match fecDecode buf s with
  | .raised r s1 => reject r s1
  | .done s1 => finish (.ok (.fecHeader s1.fec)) s1

/-- `DEC.FEC`; a buffer longer than `PKT_MAX` is refused (R59, U2). -/
def execDecFec (buf : List Byte) (s : State) : Host.Outcome State Fault Refusal :=
  if buf.length ≤ s.params.pktMax then .next (decFec buf s) else .refused (.bufferTooLong buf.length)

end Sys2Proof.Machine
end

