-- ==== Sys2Proof/Machine/Enqueue.lean ====
section
/-! DEFINITION. The insertion controller (43_enqueue.md). -/

namespace Sys2Proof.Machine

/-- `PLAIN` (R162). -/
def plain (p : Packet) : Bool := !p.padding && !p.extension && !p.marker && p.cc == 0

/-- The result of `INSERT.SCAN`; `outOfWindow` is its `raise` (R163). -/
inductive ScanResult where
  | outOfWindow
  | duplicate
  | insertAt (pos : Nat)
  deriving DecidableEq, Repr

/-- The loop of `INSERT.SCAN` over the keys not yet visited, newest first. The index of the entry being visited is the
number of keys behind it (R163). -/
def scanBack (maxDistance : Nat) (c : SeqNum) : List SeqNum → ScanResult
  | [] => .insertAt 0
  | k :: older =>
    let d := dist k c
    if absd d > (maxDistance : Int) then .outOfWindow
    else if d = 0 then .duplicate
    else if d < 0 then .insertAt (older.length + 1)
    else scanBack maxDistance c older

/-- `INSERT.SCAN(Lst, key, c)`: from the tail backward (R163). -/
def insertScan (maxDistance : Nat) (key : Packet → SeqNum) (l : List Packet) (c : SeqNum) : ScanResult :=
  scanBack maxDistance c (l.map key).reverse

/-- The tests and the insertion of `ENQ.DATA` after the decode (R161). -/
def enqDataDecoded (len : Nat) (s : State) : State :=
  let p := s.pkt.packet
  if !plain p then reject .unsupportedProfile s
  else if s.dataCount ≥ s.params.dataMax then reject .capacityExceeded s
  else
    match insertScan s.params.maxDistance.val (fun e => e.seq) s.data p.seq with
    | .outOfWindow => reject .outOfWindow s
    | .duplicate => finish (.duplicateIgnored len) s
    | .insertAt pos => finish (.accepted len) (s.setData (insertAt s.data pos p) (s.dataCount + 1))

/-- `ENQ.DATA` (R160, R161). -/
def enqData (buf : List Byte) (s : State) : State :=
  match rtpDecode (openStream buf s) with
  | .raised r s1 => reject r s1
  | .done s1 => enqDataDecoded buf.length s1

/-- `cursor == some s and FEC.STALE(h, s)`; with no cursor the test is skipped (R164, D28). -/
def staleAtCursor (cursor : Option SeqNum) (h : FecHeader) : Bool :=
  match cursor with
  | none => false
  | some c => fecStale h c

/-- The tests and the insertion of `ENQ.FEC` after the FEC header is read (R164); `p` is the decoded packet. -/
def enqFecParsed (len : Nat) (p : Packet) (s : State) : State :=
  let h := s.fec
  if !fecProfile h then reject .unsupportedProfile s
  else if staleAtCursor s.cursor h then finish (.duplicateIgnored len) s
  else
    match insertScan s.params.maxDistance.val fecKey s.fecl h.snBaseLow with
    | .outOfWindow => reject .outOfWindow s
    | .duplicate => finish (.duplicateIgnored len) s
    | .insertAt pos =>
      finish (.accepted len) (s.setFecl (insertAt s.fecl pos { p with fec := some h }) (s.fecCount + 1))

/-- The tests of `ENQ.FEC` between the RTP decode and the FEC decode (R164). -/
def enqFecDecoded (len : Nat) (s : State) : State :=
  let p := s.pkt.packet
  if !plain p || p.pt != Config.fecPt then reject .unsupportedProfile s
  else if s.fecCount ≥ s.params.fecMax then reject .capacityExceeded s
  else
    match fecDecode p.payload s with
    | .raised r s1 => reject r s1
    | .done s1 => enqFecParsed len p s1

/-- `ENQ.FEC` (R160, R164). -/
def enqFec (buf : List Byte) (s : State) : State :=
  match rtpDecode (openStream buf s) with
  | .raised r s1 => reject r s1
  | .done s1 => enqFecDecoded buf.length s1

/-- `ENQ.DATA`; a buffer longer than `PKT_MAX` is refused (R59, U2). -/
def execEnqData (buf : List Byte) (s : State) : Host.Outcome State Fault Refusal :=
  if buf.length ≤ s.params.pktMax then .next (enqData buf s) else .refused (.bufferTooLong buf.length)

/-- `ENQ.FEC`; a buffer longer than `PKT_MAX` is refused (R59, U2). -/
def execEnqFec (buf : List Byte) (s : State) : Host.Outcome State Fault Refusal :=
  if buf.length ≤ s.params.pktMax then .next (enqFec buf s) else .refused (.bufferTooLong buf.length)

end Sys2Proof.Machine
end

