-- ==== Sys2Proof/Machine/ReadFlush.lean ====
section
/-! DEFINITION. The sequential drain and the eviction controller (44_read_flush.md). -/

namespace Sys2Proof.Machine

/-- `FLUSH.DATA(s)` (R192). -/
def flushData (c : SeqNum) (s : State) : State :=
  let r := evictWhile (fun e => decide (dist c e.seq > (s.params.historyWindow.val : Int))) s.data s.dataCount
  s.setData r.1 r.2

/-- `FLUSH.FEC(s)` (R193). -/
def flushFec (c : SeqNum) (s : State) : State :=
  let r := evictWhile (fecEntryStale c) s.fecl s.fecCount
  s.setFecl r.1 r.2

/-- `FLUSH` (R191). -/
def flush (c : SeqNum) (s : State) : State := flushFec c (flushData c s)

/-- The positions of the entries with number `c`, counted from `i`. -/
def positionsFrom (c : SeqNum) : Nat → List Packet → List Nat
  | _, [] => []
  | i, e :: rest => if e.seq = c then i :: positionsFrom c (i + 1) rest else positionsFrom c (i + 1) rest

/-- What looking up the cursor's entry finds: nothing, one index, or (where the parameters have broken R31 I2) several,
of which a free value of the stored numbers and the cursor takes one (log 7), the same at every look (R7). -/
def cursorIndex (c : SeqNum) (l : List Packet) : Option Nat :=
  match positionsFrom c 0 l with
  | [] => none
  | [j] => some j
  | j :: k :: more =>
    some ((j :: k :: more).getD (Config.pickEntry (l.map (fun e => e.seq)) c % (more.length + 2)) j)

/-- The end of a successful `READ` of the candidate `e`: the cursor moves, `FLUSH` runs, the payload goes out (R190). -/
def deliver (e : Packet) (s : State) : State :=
  finish (.delivered e.payload) (flush e.seq (s.setCursor (some e.seq)))

/-- `READ` with the cursor at index `j`: the candidate is the next entry in list order, if it is exactly one number
further (R190). -/
def readAfter (c : SeqNum) (j : Nat) (s : State) : State :=
  match s.data[j + 1]? with
  | none => finish .notReady s
  | some e => if dist e.seq c ≠ 1 then finish .notReady s else deliver e s

/-- `READ` (R190). -/
def execRead (s : State) : Host.Outcome State Fault Refusal :=
  match s.data with
  | [] => .next (finish .notReady s)
  | front :: _ =>
    match s.cursor with
    | none => .next (deliver front s)
    | some c =>
      match cursorIndex c s.data with
      | none => .fault .cursorEntryMissing
      | some j => .next (readAfter c j s)

end Sys2Proof.Machine
end

