-- ==== Sys2Proof/Machine/Wire.lean ====
section
/-! DEFINITION. The table's rows that are no commands: the words the parsers interpret, and the status word. A row's
meaning is the step of the decode that takes this word (R111 to R113, R130): it writes the registers the word fills, and
the block goes on to the next word of the wire order (log 4). -/

namespace Sys2Proof.Machine

/-- After CSRC identifiers `0 .. k-1`: the next identifier, or the extension, or the payload (R112, R113). -/
def afterCsrcs (k : Nat) (s : State) : State :=
  if h : k < s.pkt.cc.toNat then s.setPhase (.wire (.rtpCsrc ⟨k, by have := s.pkt.cc.isLt; omega⟩))
  else if s.pkt.extension then s.setPhase (.wire .rtpExt)
  else (clearRtpExt s).setPhase .payload

/-- After the last FEC word: `Ok` with the header, or `Truncated` where a read ran off the end (R130). -/
def afterFecHeader (s : State) : State :=
  if valid s then returnAt (.fecHeader s.fec) s else raiseAt .truncated s

/-- Row `RTP.W0+SEQ` (R111). -/
def execRtpW0Seq (f : RtpW0Seq) (s : State) : Host.Outcome State Fault Refusal :=
  .next ((latchRtpW0Seq f s).setPhase (.wire .rtpTs))

/-- Row `RTP.TS` (R111). -/
def execRtpTs (ts : U32) (s : State) : Host.Outcome State Fault Refusal :=
  .next ((latchRtpTs ts s).setPhase (.wire .rtpSsrc))

/-- Row `RTP.SSRC` (R111). -/
def execRtpSsrc (ssrc : U32) (s : State) : Host.Outcome State Fault Refusal :=
  .next (afterCsrcs 0 (latchRtpSsrc ssrc s))

/-- Row `RTP.CSRC[i]` (R112). -/
def execRtpCsrc (i : Fin 15) (csrc : U32) (s : State) : Host.Outcome State Fault Refusal :=
  .next (afterCsrcs (i.val + 1) (latchRtpCsrc i.val csrc s))

/-- The extension step of the word-by-word decode: `Truncated` at once, or on to the payload (R113). -/
def rtpExtStep (f : RtpExt) (s : State) : State :=
  match latchRtpExt f s with
  | .raised r s1 => raiseAt r s1
  | .done s1 => s1.setPhase .payload

/-- Row `RTP.EXT` (R113). -/
def execRtpExt (f : RtpExt) (s : State) : Host.Outcome State Fault Refusal := .next (rtpExtStep f s)

/-- Row `FEC.BASE+LEN` (R130). -/
def execFecBaseLen (f : FecBaseLen) (s : State) : Host.Outcome State Fault Refusal :=
  .next ((latchFecBaseLen f s).setPhase (.wire .fecW1))

/-- Row `FEC.W1` (R130). -/
def execFecW1 (f : FecW1) (s : State) : Host.Outcome State Fault Refusal :=
  .next ((latchFecW1 f s).setPhase (.wire .fecTsrec))

/-- Row `FEC.TSREC` (R130). -/
def execFecTsrec (ts : U32) (s : State) : Host.Outcome State Fault Refusal :=
  .next ((latchFecTsrec ts s).setPhase (.wire .fecW2))

/-- Row `FEC.W2` (R130). -/
def execFecW2 (f : FecW2) (s : State) : Host.Outcome State Fault Refusal := .next (afterFecHeader (latchFecW2 f s))

/-- The header that the row FEC.ACCEPTED is: its free fields, and the six that the profile fixes (R131). -/
def FecAccepted.header (f : FecAccepted) : FecHeader :=
  { snBaseLow := f.snBaseLow, lengthRecovery := f.lengthRecovery, e := true, ptRecovery := f.ptRecovery, mask := 0,
    tsRecovery := f.tsRecovery, x := false, d := f.d, type := 0, index := 0, offset := f.offset, na := f.na,
    snBaseExt := 0 }

/-- Row `FEC.ACCEPTED`: the four words of a header in profile at once (R130, R131). -/
def execFecAccepted (f : FecAccepted) (s : State) : Host.Outcome State Fault Refusal :=
  .next (afterFecHeader (s.setFec (FecAccepted.header f)))

/-- Row `RESPONSE.STATUS` (R82). -/
def execResponseStatus (r : Bool) (code : BitVec 3) (s : State) : Host.Outcome State Fault Refusal :=
  if statusProduced (statusWord r code) then .next (driveStatus (statusWord r code) s)
  else .refused (.statusNeverProduced (statusWord r code))

/-! ### The word-by-word decode around the rows -/

/-- Take the bytes of the next word of the stream, in the reads of R56. -/
def fetchRow (row : WireRow) (s : State) : List Byte × State :=
  match row with
  | .rtpW0Seq | .rtpExt | .fecBaseLen => (bytes32 (rdPair s).1, (rdPair s).2)
  | .rtpTs | .rtpSsrc | .rtpCsrc _ | .fecW1 | .fecTsrec | .fecW2 => (bytes32 (rd32 s).1, (rd32 s).2)
  | .fecAccepted =>
    let w0 := rdPair s
    let w1 := rd32 w0.2
    let w2 := rd32 w1.2
    let w3 := rd32 w2.2
    (bytes32 w0.1 ++ bytes32 w1.1 ++ bytes32 w2.1 ++ bytes32 w3.1, w3.2)

/-- A header that is not the row FEC.ACCEPTED: short, or outside the profile (R164). -/
def notAccepted (s : State) : State :=
  raiseAt (if valid s then .unsupportedProfile else .truncated) s

/-- The payload step of the word-by-word decode (R114, R115). -/
def payloadStep (s : State) : State :=
  match rtpPayload s with
  | .raised r s1 => raiseAt r s1
  | .done s1 => returnAt (.packet s1.pkt.packet) s1

end Sys2Proof.Machine
end

