-- ==== Sys2Proof/Machine/Reserved.lean ====
section
/-! DEFINITION. The two reserved operation codes: the model gives them no meaning and no response (R89, U3). -/

namespace Sys2Proof.Machine

/-- op 011 (R89). -/
def execReserved3 (_s : State) : Host.Outcome State Fault Refusal := .refused (.reservedOperation 0b011)

/-- op 111 (R89). -/
def execReserved7 (_s : State) : Host.Outcome State Fault Refusal := .refused (.reservedOperation 0b111)

end Sys2Proof.Machine
end

