-- ==== Sys2Proof/Machine/Dispatch.lean ====
section
/-! DEFINITION. One arm for each constructor of `Instr`. -/

namespace Sys2Proof.Machine

def exec (i : Instr) (s : State) : Host.Outcome State Fault Refusal :=
  match i with
  | .read => Sys2Proof.Machine.execRead s
  | .enqData buf => Sys2Proof.Machine.execEnqData buf s
  | .enqFec buf => Sys2Proof.Machine.execEnqFec buf s
  | .reserved3 => Sys2Proof.Machine.execReserved3 s
  | .decRtp buf => Sys2Proof.Machine.execDecRtp buf s
  | .decFec buf => Sys2Proof.Machine.execDecFec buf s
  | .seqdist a b => Sys2Proof.Machine.execSeqdist a b s
  | .reserved7 => Sys2Proof.Machine.execReserved7 s
  | .rtpW0Seq f => Sys2Proof.Machine.execRtpW0Seq f s
  | .rtpTs ts => Sys2Proof.Machine.execRtpTs ts s
  | .rtpSsrc ssrc => Sys2Proof.Machine.execRtpSsrc ssrc s
  | .rtpCsrc k csrc => Sys2Proof.Machine.execRtpCsrc k csrc s
  | .rtpExt f => Sys2Proof.Machine.execRtpExt f s
  | .fecBaseLen f => Sys2Proof.Machine.execFecBaseLen f s
  | .fecW1 f => Sys2Proof.Machine.execFecW1 f s
  | .fecTsrec ts => Sys2Proof.Machine.execFecTsrec ts s
  | .fecW2 f => Sys2Proof.Machine.execFecW2 f s
  | .fecAccepted f => Sys2Proof.Machine.execFecAccepted f s
  | .responseStatus r code => Sys2Proof.Machine.execResponseStatus r code s

end Sys2Proof.Machine
end

