-- ==== Sys2Proof/Machine/Fetch.lean ====
section
/-! DEFINITION. What stands before the block is decoded and run: the host's next event at a command boundary, the next
word inside a decode. -/

namespace Sys2Proof.Machine

/-- Decode what stands at a slot and run it; bytes that are no instruction stop or reject as `bad` says. -/
def runAt (slot : Slot) (bytes : List Byte) (bad : DecodeError → Host.Outcome State Fault Refusal) (s : State) :
    Host.Outcome State Fault Refusal :=
  match decode slot bytes with
  | .ok (i, _) => exec i s
  | .error e => bad e

/-- Bytes that are no instruction are refused by name. -/
def refuseBytes (e : DecodeError) : Host.Outcome State Fault Refusal := .refused (.undecodable e)

/-- A word of the stream that its row does not have: only FEC.ACCEPTED can be met with such a word (R131). -/
def badWord (s : State) : DecodeError → Host.Outcome State Fault Refusal
  | .outsideProfile => .next (notAccepted s)
  | e => refuseBytes e

/-- At a command boundary: the host's next event, a command being one atomic transition (R5, R60, R240). With nothing
presented the block rests: it does nothing on its own (R216). -/
def portStep (s : State) : Host.Outcome State Fault Refusal :=
  match s.pending with
  | [] => .next s
  | .reset :: rest => .next (applyReset (s.setPending rest))
  | .command frame :: rest => runAt .port frame refuseBytes (s.setPending rest)

/-- Inside a decode: take the next word of the stream and run it. -/
def wireStep (row : WireRow) (s : State) : Host.Outcome State Fault Refusal :=
  runAt (.wire row) (fetchRow row s).1 (badWord (fetchRow row s).2) (fetchRow row s).2

/-- At the response port: drive the status word that stands there. -/
def respondStep (w : Status) (s : State) : Host.Outcome State Fault Refusal :=
  runAt .status [(0 : BitVec 4) ++ w] refuseBytes s

/-- A command frame from a table word, placed before the host's other events. -/
def placeFrame (w : Nat) (s : State) : State :=
  (s.setPhase .port).setPending (.command (tableFrame w) :: s.pending)

/-- A wire word placed as the whole stream of a decode that is about to read it. -/
def placeWord (row : WireRow) (bytes : List Byte) (s : State) : State :=
  (openStream bytes s).setPhase (.wire row)

end Sys2Proof.Machine
end

