-- ==== Sys2Proof/Machine/Step.lean ====
section
/-! DEFINITION. One step of the block. -/

namespace Sys2Proof.Machine

/-- One step. Parameters outside R6 are refused (U5). At a command boundary the block performs what the host presents;
inside a decode it takes the next word (log 4). -/
def step (s : State) : Host.Outcome State Fault Refusal :=
  if s.params.legal then
    match s.phase with
    | .port => portStep s
    | .wire row => wireStep row s
    | .payload => .next (payloadStep s)
    | .respond w => respondStep w s
  else .refused .parametersOutOfRange

/-- `s` with a table row's word placed where the next step takes it (log 4). -/
def State.withFetchWord (s : State) (nbits w : Nat) : State :=
  if nbits ≤ 8 then placeFrame w s
  else if nbits ≤ 32 then placeWord .rtpW0Seq (bytes32 (BitVec.ofNat 32 w)) s
  else placeWord .fecAccepted (tableHeader w) s

end Sys2Proof.Machine
end

