-- ==== Sys2Proof/Machine/ClosedForm.lean ====
section
/-! DEFINITION. What the spec says of the two decoders without a stream: the closed form of R117, and the byte table of
R87. The machine does not use them; the statements compare it with them. -/

namespace Sys2Proof.Machine

/-- The byte at offset `i`; the closed forms read only offsets below `buf.length`. -/
def byteAt (buf : List Byte) (i : Nat) : Byte := buf.getD i 0

/-- The unsigned value of the 16 bits at offset `i` (R51: `buf[i]*256 + buf[i+1]`). -/
def value16 (buf : List Byte) (i : Nat) : Nat := (byteAt buf i).toNat * 256 + (byteAt buf (i + 1)).toNat

/-- The unsigned value of the 32 bits at offset `i` (R51). -/
def value32 (buf : List Byte) (i : Nat) : Nat :=
  (byteAt buf i).toNat * 2 ^ 24 + (byteAt buf (i + 1)).toNat * 2 ^ 16 + (byteAt buf (i + 2)).toNat * 2 ^ 8 +
    (byteAt buf (i + 3)).toNat

/-- `cc` of byte 0, bits 3..0 (R83, R117). -/
def headCc (buf : List Byte) : Nat := (byteAt buf 0).toNat % 16

/-- `extension` of byte 0, bit 4 (R83, R117). -/
def headExt (buf : List Byte) : Bool := (byteAt buf 0).toNat / 16 % 2 == 1

/-- `padding` of byte 0, bit 5 (R83, R117). -/
def headPad (buf : List Byte) : Bool := (byteAt buf 0).toNat / 32 % 2 == 1

/-- `H = 12 + 4*cc` (R117). -/
def headEnd (buf : List Byte) : Nat := 12 + 4 * headCc buf

/-- `L = buf[H+2]*256 + buf[H+3]` (R117). -/
def extLength (buf : List Byte) : Nat := value16 buf (headEnd buf + 2)

/-- R117, first bullet: when the outcome is `Rejected(Truncated)`. -/
def isTruncated (buf : List Byte) : Bool :=
  decide (buf.length < 12) || decide (buf.length < headEnd buf) ||
  (headExt buf && (decide (buf.length < headEnd buf + 4) || decide (extLength buf > buf.length - headEnd buf - 4)))

/-- `P0` (R86, R117). -/
def payloadStart (buf : List Byte) : Nat := headEnd buf + (if headExt buf then 4 + extLength buf else 0)

/-- `n = len - P0`, the raw payload length (R117). -/
def rawLength (buf : List Byte) : Nat := buf.length - payloadStart buf

/-- The trim count of a padded buffer, its last byte; 0 without padding (R86, R117). -/
def trimCount (buf : List Byte) : Nat := if headPad buf then (byteAt buf (buf.length - 1)).toNat else 0

/-- R117, second bullet: when a buffer that is not truncated is `Rejected(Malformed)`. -/
def isMalformed (buf : List Byte) : Bool :=
  headPad buf && (rawLength buf == 0 || decide (trimCount buf > rawLength buf))

/-- The packet of R117's third bullet, its fields from the bytes as R83 to R86 place them. -/
def closedPacket (buf : List Byte) : Packet :=
  { version := BitVec.ofNat 2 ((byteAt buf 0).toNat / 64)
    padding := headPad buf
    extension := headExt buf
    cc := BitVec.ofNat 4 (headCc buf)
    marker := (byteAt buf 1).toNat / 128 == 1
    pt := BitVec.ofNat 7 ((byteAt buf 1).toNat % 128)
    seq := BitVec.ofNat 16 (value16 buf 2)
    ts := BitVec.ofNat 32 (value32 buf 4)
    ssrc := BitVec.ofNat 32 (value32 buf 8)
    csrc := (List.range (headCc buf)).map (fun i => BitVec.ofNat 32 (value32 buf (12 + 4 * i)))
    ext :=
      if headExt buf then
        some { id := BitVec.ofNat 16 (value16 buf (headEnd buf)), length := BitVec.ofNat 16 (extLength buf),
               data := (buf.drop (headEnd buf + 4)).take (extLength buf) }
      else none
    payload := (buf.drop (payloadStart buf)).take (rawLength buf - trimCount buf)
    fec := none }

/-- The closed form of `DEC.RTP` (R117). -/
def closedRtp (buf : List Byte) : Except Reason Packet :=
  if isTruncated buf then .error .truncated
  else if isMalformed buf then .error .malformed
  else .ok (closedPacket buf)

/-- The header in the first sixteen bytes of a payload, byte by byte as R87 places the fields. -/
def closedFecHeader (payload : List Byte) : FecHeader :=
  let b := fun i => (byteAt payload i).toNat
  { snBaseLow := BitVec.ofNat 16 (value16 payload 0)
    lengthRecovery := BitVec.ofNat 16 (value16 payload 2)
    e := b 4 / 128 == 1
    ptRecovery := BitVec.ofNat 7 (b 4 % 128)
    mask := BitVec.ofNat 24 (b 5 * 2 ^ 16 + b 6 * 2 ^ 8 + b 7)
    tsRecovery := BitVec.ofNat 32 (value32 payload 8)
    x := b 12 / 128 == 1
    d := b 12 / 64 % 2 == 1
    type := BitVec.ofNat 3 (b 12 / 8 % 8)
    index := BitVec.ofNat 3 (b 12 % 8)
    offset := byteAt payload 13
    na := byteAt payload 14
    snBaseExt := byteAt payload 15 }

/-- `DEC.FEC` in one line: `Truncated` below sixteen bytes, else the header (R130). -/
def closedFec (payload : List Byte) : Except Reason FecHeader :=
  if payload.length < 16 then .error .truncated else .ok (closedFecHeader payload)

end Sys2Proof.Machine
end

