-- ==== Sys2Proof/Safety.lean ====
section
/-! DEFINITION. The terms the statements use: what a command leaves alone, what a response is, the invariants of R31,
and runs. -/

namespace Sys2Proof.Machine

/-! ### What is left alone -/

/-- The five pieces of persistent state of R20 are the same (R166, R214). -/
def SamePersistent (s t : State) : Prop :=
  t.data = s.data ∧ t.dataCount = s.dataCount ∧ t.fecl = s.fecl ∧ t.fecCount = s.fecCount ∧ t.cursor = s.cursor

/-- What no command writes: the parameters (R6) and what the host is still going to present. -/
def SameSurroundings (s t : State) : Prop := t.params = s.params ∧ t.pending = s.pending

/-- The block is at a command boundary and the transient registers hold nothing of the last command (R20, R214). What
they hold instead is the model's choice (log 9). -/
def AtBoundary (s : State) : Prop :=
  s.phase = .port ∧ s.strm = Stream.idle ∧ s.pkt = PktRegs.idle ∧ s.fec = FecHeader.idle ∧ s.value = .none

/-- The command is over with this response (R82): the pair stands at the response port, the block is ready for the next
command (R215), and what no command writes is the same. -/
def Answered (status : Status) (value : Value) (s t : State) : Prop :=
  t.response = some { status := status, value := value } ∧ t.phase = .port ∧ SameSurroundings s t

/-- A command that ends with this response and changes no persistent state. -/
def AnsweredOnly (status : Status) (value : Value) (s t : State) : Prop :=
  Answered status value s t ∧ SamePersistent s t

/-- A wire word's step leaves alone everything outside the decode: the persistent state, the surroundings, and the
response that still stands. -/
def SameOutsideDecode (s t : State) : Prop :=
  SamePersistent s t ∧ SameSurroundings s t ∧ t.response = s.response

/-- An outcome without the model's own count of draws, which is all that a run may leave behind of them (log 5). -/
def forgetDraws : Host.Outcome State Fault Refusal → Host.Outcome State Fault Refusal
  | .next t => .next (t.setDraws 0)
  | .fault f => .fault f
  | .refused r => .refused r

/-! ### Invariants (R31) -/

/-- Each key follows the one before it by 1 to `m` (R163 inserts so, R192 and R193 keep it so). -/
def StepsWithin (m : Nat) (keys : List SeqNum) : Prop :=
  keys.IsChain (fun a b => 0 < dist b a ∧ dist b a ≤ (m : Int))

/-- I1 and I3: strictly ordered by distance from the first. -/
def OrderedFromFirst (keys : List SeqNum) : Prop :=
  ∀ (first : SeqNum) (i j : Nat) (a b : SeqNum), keys[0]? = some first → keys[i]? = some a → keys[j]? = some b →
    i < j → dist a first < dist b first

/-- I7, for an entry of either list. -/
def StoredPlain (p : Packet) : Prop :=
  p.padding = false ∧ p.extension = false ∧ p.marker = false ∧ p.cc = 0 ∧ p.csrc = [] ∧ p.ext = none

/-- I7, for an entry of the FEC list: the FEC payload type, at least sixteen payload bytes, and the header that those
bytes hold, in the simple profile. -/
def StoredFec (p : Packet) : Prop :=
  StoredPlain p ∧ p.pt = 96 ∧ 16 ≤ p.payload.length ∧ p.fec = some (closedFecHeader p.payload) ∧
    fecProfile (closedFecHeader p.payload) = true

/-- I4: a set cursor has an entry in the DATA list. -/
def CursorStored (s : State) : Prop := ∀ c, s.cursor = some c → ∃ e ∈ s.data, e.seq = c

/-- I5. -/
def CountsRight (s : State) : Prop :=
  s.dataCount = s.data.length ∧ s.dataCount ≤ s.params.dataMax ∧ s.fecCount = s.fecl.length ∧
    s.fecCount ≤ s.params.fecMax

/-- The invariant of the stores that every step keeps, whatever the parameters. -/
def StoreInv (s : State) : Prop :=
  StepsWithin s.params.maxDistance.val (s.data.map (fun e => e.seq)) ∧
  StepsWithin s.params.maxDistance.val (s.fecl.map fecKey) ∧
  CursorStored s ∧ CountsRight s ∧
  (∀ e ∈ s.data, StoredPlain e ∧ e.fec = none) ∧ (∀ e ∈ s.fecl, StoredFec e)

/-- The invariants I1 to I5 and I7 of R31, and of I6 what stays true of a stored packet: its CSRC list has the declared
length. -/
def SpecInvariants (s : State) : Prop :=
  OrderedFromFirst (s.data.map (fun e => e.seq)) ∧ (s.data.map (fun e => e.seq)).Nodup ∧
  OrderedFromFirst (s.fecl.map fecKey) ∧ (s.fecl.map fecKey).Nodup ∧
  CursorStored s ∧ CountsRight s ∧
  (∀ e ∈ s.data, StoredPlain e ∧ e.fec = none) ∧ (∀ e ∈ s.fecl, StoredFec e) ∧
  (∀ e, e ∈ s.data ∨ e ∈ s.fecl → e.csrc.length = e.cc.toNat)

/-! ### Runs -/

/-- The block right after reset, built with parameters `p`, for a host that will present `events`. -/
def startState (p : Params) (events : List HostEvent) : State :=
  (({ State.reset with params := p } : State)).setPending events

/-- `k` steps of the machine, stopping at the first fault or refusal. -/
def runSteps : Nat → State → Host.Outcome State Fault Refusal
  | 0, s => .next s
  | k + 1, s =>
    match step s with
    | .next t => runSteps k t
    | .fault r => .fault r
    | .refused r => .refused r

/-- `k` `READ` commands one after another, with the response to each. -/
def readMany : Nat → State → Option (List (Option Response) × State)
  | 0, s => some ([], s)
  | k + 1, s =>
    match exec .read s with
    | .next t =>
      match readMany k t with
      | some (rs, u) => some (t.response :: rs, u)
      | none => none
    | .fault _ => none
    | .refused _ => none

end Sys2Proof.Machine
end

