-- ==== Sys2Proof/Certificates/Slice0/Obligations.lean ====
section
/-! DEFINITION. The statements for the provers, grouped as the spec's files are. -/

open Sys2Proof Sys2Proof.Machine

/-! ### Encodings (30_encoding.md) and the step -/

/-- Decoding the encoding of a well-formed instruction, at the slot where its word is met, gives the instruction back
with every operand, and the bytes after it. The wire layouts are R83 to R87, the op codes R81, the status codes R82; the
frame around a command's operands is the model's choice (log 3). -/
def Obligations.DecodeOfEncode : Prop :=
  ∀ (i : Instr) (rest : List Byte), i.wellFormed = true → decode i.slot (encode i ++ rest) = .ok (i, rest)

/-- The other direction for the words of a stream: whatever a row decodes to, encoding it gives the very bytes it was
decoded from, so no bit of a wire word is dropped (R83 to R87; for FEC.ACCEPTED the fixed bits of R131). -/
def Obligations.EncodeOfDecodedWireWord : Prop :=
  ∀ (row : WireRow) (bytes rest : List Byte) (i : Instr),
    decode (.wire row) bytes = .ok (i, rest) → encode i ++ rest = bytes ∧ i.slot = .wire row

/-- Words written out from the spec's tables: the op codes of R81 with operands, `w0` = 0x82E0 of R111's example, the
extension words of R113's example, the two FEC words of vector FH4, and a status code. -/
def Obligations.SpecWordsDecode : Prop :=
  decode .port [0x00] = .ok (.read, []) ∧
  decode .port [0x01, 2, 0xAA, 0xBB] = .ok (.enqData [0xAA, 0xBB], []) ∧
  decode .port [0x02, 1, 0xCC] = .ok (.enqFec [0xCC], []) ∧
  decode .port [0x03] = .ok (.reserved3, []) ∧
  decode .port [0x04, 1, 0x80, 0x55] = .ok (.decRtp [0x80], [0x55]) ∧
  decode .port [0x05, 0] = .ok (.decFec [], []) ∧
  decode .port [0x06, 0x00, 0x00, 0xFF, 0xFF] = .ok (.seqdist 0 65535, []) ∧
  decode .port [0x07] = .ok (.reserved7, []) ∧
  decode (.wire .rtpW0Seq) [0x82, 0xE0, 0xFF, 0xFF] =
    .ok (.rtpW0Seq ⟨2, false, false, 2, true, 96, 65535⟩, []) ∧
  decode (.wire .rtpExt) [0xBE, 0xDE, 0x00, 0x03] = .ok (.rtpExt ⟨0xBEDE, 3⟩, []) ∧
  decode (.wire .fecW1) [0xA1, 0x00, 0x00, 0x01] = .ok (.fecW1 ⟨true, 33, 1⟩, []) ∧
  decode (.wire .fecW2) [0x40, 0x01, 0x05, 0x00] = .ok (.fecW2 ⟨false, true, 0, 0, 1, 5, 0⟩, []) ∧
  decode .status [0x0C] = .ok (.responseStatus true 4, []) ∧
  decode .status [0x0F] = .error .statusNeverProduced

/-- A step at a command boundary runs the presented command: `step` is `exec` of the decoded instruction, on the state
from which that frame has been taken; so it is for the frame of any well-formed command. -/
def Obligations.StepRunsPresentedCommand : Prop :=
  (∀ (s : State) (frame more : List Byte) (rest : List HostEvent) (i : Instr),
    s.params.legal = true → s.phase = .port → s.pending = .command frame :: rest →
    decode .port frame = .ok (i, more) → step s = exec i (s.setPending rest)) ∧
  (∀ (s : State) (rest : List HostEvent) (i : Instr),
    s.params.legal = true → s.phase = .port → i.wellFormed = true → i.slot = .port →
    s.pending = .command (encode i) :: rest → step s = exec i (s.setPending rest))

/-- A step inside a decode runs the word that stands at `strm.pos`, the reader having moved past it (the rows' own
place in the machine is the model's choice, log 4); sixteen bytes outside the profile are answered as R164 answers them. -/
def Obligations.StepRunsWireWord : Prop :=
  ∀ (s : State) (row : WireRow),
    s.params.legal = true → s.phase = .wire row → s.strm.len = s.strm.buf.length →
    s.strm.pos + (if row = .fecAccepted then 16 else 4) ≤ s.strm.len →
    let t := s.setStrm { s.strm with pos := s.strm.pos + (if row = .fecAccepted then 16 else 4) }
    (∀ (i : Instr) (more : List Byte), decode (.wire row) (s.strm.buf.drop s.strm.pos) = .ok (i, more) →
      step s = exec i t) ∧
    (decode (.wire row) (s.strm.buf.drop s.strm.pos) = .error .outsideProfile → s.strm.ok = true →
      step s = .next ((t.setValue (.count 0)).setPhase (.respond 0b1010)))

/-- A step at the response port drives the status word that stands there (R82; its place in the machine is log 4). -/
def Obligations.StepRunsStatusWord : Prop :=
  ∀ (s : State) (r : Bool) (code : BitVec 3),
    s.params.legal = true → s.phase = .respond (statusWord r code) → statusProduced (statusWord r code) = true →
    step s = exec (.responseStatus r code) s

/-- With nothing presented, a step at a command boundary changes nothing (R216: the block does nothing on its own; that
such a step is taken at all is the model's choice, log 10). Parameters outside R6 are refused (U5). -/
def Obligations.RestingAndRefusedSteps : Prop :=
  (∀ s : State, s.params.legal = true → s.phase = .port → s.pending = [] → step s = .next s) ∧
  (∀ s : State, (s.params.dataMax < 1 ∨ s.params.pktMax < 16) → step s = .refused .parametersOutOfRange)

/-- R89: the reserved operation codes are refused, in every state. -/
def Obligations.ReservedCodesRefused : Prop :=
  ∀ s : State, exec .reserved3 s = .refused (.reservedOperation 0b011) ∧
    exec .reserved7 s = .refused (.reservedOperation 0b111)

/-- R59, U2: a command with a buffer longer than `PKT_MAX` is refused. -/
def Obligations.LongBufferRefused : Prop :=
  ∀ (buf : List Byte) (s : State), s.params.pktMax < buf.length →
    exec (.enqData buf) s = .refused (.bufferTooLong buf.length) ∧
    exec (.enqFec buf) s = .refused (.bufferTooLong buf.length) ∧
    exec (.decRtp buf) s = .refused (.bufferTooLong buf.length) ∧
    exec (.decFec buf) s = .refused (.bufferTooLong buf.length)

/-! ### The stream reader (20_memory.md) -/

/-- The reads of R53 and R54 on a reader within its buffer: in bounds the big-endian value and the advance, off the end
the flag and the position. -/
def Obligations.StreamReads : Prop :=
  ∀ s : State, s.strm.len = s.strm.buf.length → s.strm.pos ≤ s.strm.len →
    (s.strm.pos + 2 ≤ s.strm.len →
      rd16 s = (BitVec.ofNat 16 (value16 s.strm.buf s.strm.pos), s.setStrm { s.strm with pos := s.strm.pos + 2 })) ∧
    (s.strm.len < s.strm.pos + 2 →
      (rd16 s).2 = (s.setStrm { s.strm with ok := false, pos := s.strm.len }).setDraws (s.draws + 1)) ∧
    (s.strm.pos + 4 ≤ s.strm.len →
      rd32 s = (BitVec.ofNat 32 (value32 s.strm.buf s.strm.pos), s.setStrm { s.strm with pos := s.strm.pos + 4 })) ∧
    (s.strm.len < s.strm.pos + 4 →
      (rd32 s).2 = (s.setStrm { s.strm with ok := false, pos := s.strm.len }).setDraws (s.draws + 1)) ∧
    (∀ n, s.strm.pos + n ≤ s.strm.len →
      rdbytes n s = ((s.strm.buf.drop s.strm.pos).take n, s.setStrm { s.strm with pos := s.strm.pos + n })) ∧
    (∀ n, s.strm.len < s.strm.pos + n →
      (rdbytes n s).1.length = n ∧
      (rdbytes n s).2 = (s.setStrm { s.strm with ok := false, pos := s.strm.len }).setDraws (s.draws + n))

/-! ### The RTP header parser (40_rtp_header_decode.md) -/

/-- R117: the stream form of `DEC.RTP` gives the closed form's outcome whatever the draws are, and changes no persistent
state. -/
def Obligations.DecRtpIsClosedForm : Prop :=
  ∀ (buf : List Byte) (s : State), buf.length ≤ s.params.pktMax →
    ∃ t, exec (.decRtp buf) s = .next t ∧
      (if isTruncated buf then AnsweredOnly 0b1000 (.count 0) s t
       else if isMalformed buf then AnsweredOnly 0b1001 (.count 0) s t
       else AnsweredOnly 0b0000 (.packet (closedPacket buf)) s t)

/-- The wire rows run one after another over a buffer, from its first word, reach exactly the state that the one command
`DEC.RTP` reaches: the word-by-word decode (log 4) and the command agree, in their response, their effects and their
draws. -/
def Obligations.WordByWordIsDecRtp : Prop :=
  ∀ (buf : List Byte) (s : State), s.params.legal = true → buf.length ≤ s.params.pktMax →
    ∃ (k : Nat) (t : State), exec (.decRtp buf) s = .next t ∧ runSteps k (placeWord .rtpW0Seq buf s) = .next t

/-- R118, R90: the version, marker, payload type, sequence number, timestamp and SSRC decide nothing. Two buffers of one
length that agree in the low six bits of byte 0 and from offset 12 on are both `Ok` or rejected for one reason. -/
def Obligations.UncheckedFieldsDecideNothing : Prop :=
  ∀ (buf₁ buf₂ : List Byte) (s t₁ t₂ : State) (r₁ r₂ : Response), buf₁.length = buf₂.length →
    (byteAt buf₁ 0).toNat % 64 = (byteAt buf₂ 0).toNat % 64 → buf₁.drop 12 = buf₂.drop 12 →
    exec (.decRtp buf₁) s = .next t₁ → exec (.decRtp buf₂) s = .next t₂ →
    t₁.response = some r₁ → t₂.response = some r₂ → r₁.status = r₂.status

/-- R111: the three words of the fixed header write their fields and nothing else, and the decode goes on to the next
word. The fields `phase`, `value` and `draws` are the model's own (logs 4 and 5). -/
def Obligations.FixedHeaderRows : Prop :=
  ∀ s : State,
    (∀ f : RtpW0Seq, ∃ t, exec (.rtpW0Seq f) s = .next t ∧
      t.pkt = { s.pkt with version := f.version, padding := f.padding, extension := f.extension, cc := f.cc,
                           marker := f.marker, pt := f.pt, seq := f.seq } ∧
      t.strm = s.strm ∧ t.fec = s.fec ∧ t.phase = .wire .rtpTs ∧ t.value = s.value ∧ t.draws = s.draws ∧
      SameOutsideDecode s t) ∧
    (∀ v : U32, ∃ t, exec (.rtpTs v) s = .next t ∧ t.pkt = { s.pkt with ts := v } ∧
      t.strm = s.strm ∧ t.fec = s.fec ∧ t.phase = .wire .rtpSsrc ∧ t.value = s.value ∧ t.draws = s.draws ∧
      SameOutsideDecode s t) ∧
    (∀ v : U32, ∃ t, exec (.rtpSsrc v) s = .next t ∧
      t.pkt = { s.pkt with ssrc := v, ext := if s.pkt.cc = 0 ∧ s.pkt.extension = false then none else s.pkt.ext } ∧
      t.strm = s.strm ∧ t.fec = s.fec ∧ t.value = s.value ∧ t.draws = s.draws ∧ SameOutsideDecode s t ∧
      (0 < s.pkt.cc.toNat → t.phase = .wire (.rtpCsrc 0)) ∧
      (s.pkt.cc = 0 → s.pkt.extension = true → t.phase = .wire .rtpExt) ∧
      (s.pkt.cc = 0 → s.pkt.extension = false → t.phase = .payload))

/-- R112: a CSRC word writes its register of the file and no other. -/
def Obligations.CsrcRow : Prop :=
  ∀ (i : Fin 15) (v : U32) (s : State), ∃ t, exec (.rtpCsrc i v) s = .next t ∧
    t.pkt.csrc[i] = v ∧ (∀ j : Fin 15, j ≠ i → t.pkt.csrc[j] = s.pkt.csrc[j]) ∧
    { t.pkt with csrc := s.pkt.csrc, ext := s.pkt.ext } = s.pkt ∧
    t.pkt.ext = (if s.pkt.cc.toNat ≤ i.val + 1 ∧ s.pkt.extension = false then none else s.pkt.ext) ∧
    t.strm = s.strm ∧ t.fec = s.fec ∧ t.value = s.value ∧ t.draws = s.draws ∧ SameOutsideDecode s t ∧
    (∀ h : i.val + 1 < s.pkt.cc.toNat ∧ i.val + 1 < 15, t.phase = .wire (.rtpCsrc ⟨i.val + 1, h.2⟩)) ∧
    (s.pkt.cc.toNat ≤ i.val + 1 → t.phase = if s.pkt.extension then .wire .rtpExt else .payload)

/-- R113: after the two extension words, a length above the bytes that remain is `Truncated` at once; otherwise that
many bytes, not words, are copied and the payload comes next. -/
def Obligations.ExtensionRow : Prop :=
  ∀ (f : RtpExt) (s : State), s.strm.len = s.strm.buf.length → s.strm.pos ≤ s.strm.len →
    ∃ t, exec (.rtpExt f) s = .next t ∧ SameOutsideDecode s t ∧ t.fec = s.fec ∧ t.draws = s.draws ∧
      (s.strm.len - s.strm.pos < f.length.toNat →
        t.phase = .respond 0b1000 ∧ t.value = .count 0 ∧ t.pkt = s.pkt ∧ t.strm = s.strm) ∧
      (f.length.toNat ≤ s.strm.len - s.strm.pos →
        t.phase = .payload ∧ t.value = s.value ∧ t.strm = { s.strm with pos := s.strm.pos + f.length.toNat } ∧
        t.pkt = { s.pkt with ext := some { id := f.id, length := f.length,
                                           data := (s.strm.buf.drop s.strm.pos).take f.length.toNat } })

/-! ### The FEC header parser (41_fec_header_decode.md) -/

/-- R130: `DEC.FEC` is `Truncated` below sixteen bytes and otherwise answers `Ok` with the thirteen fields, whatever
they are, and changes no persistent state. -/
def Obligations.DecFecResult : Prop :=
  ∀ (buf : List Byte) (s : State), buf.length ≤ s.params.pktMax →
    ∃ t, exec (.decFec buf) s = .next t ∧
      (if buf.length < 16 then AnsweredOnly 0b1000 (.count 0) s t
       else AnsweredOnly 0b0000 (.fecHeader (closedFecHeader buf)) s t)

/-- The four FEC words run one after another over sixteen bytes or more reach the state that the one command `DEC.FEC`
reaches; over fewer they end in the same rejection (log 4). -/
def Obligations.WordByWordIsDecFec : Prop :=
  ∀ (buf : List Byte) (s : State), s.params.legal = true → buf.length ≤ s.params.pktMax →
    (16 ≤ buf.length → runSteps 5 (placeWord .fecBaseLen buf s) = exec (.decFec buf) s) ∧
    (buf.length < 16 → ∃ t, runSteps 5 (placeWord .fecBaseLen buf s) = .next t ∧ AnsweredOnly 0b1000 (.count 0) s t)

/-- The FEC words write their fields of the FEC registers and nothing else (R130); the last of them ends the header:
`Ok` with it, or `Truncated` where a read had run off the end. -/
def Obligations.FecRows : Prop :=
  ∀ s : State,
    (∀ f : FecBaseLen, ∃ t, exec (.fecBaseLen f) s = .next t ∧
      t.fec = { s.fec with snBaseLow := f.snBaseLow, lengthRecovery := f.lengthRecovery } ∧
      t.phase = .wire .fecW1 ∧ t.pkt = s.pkt ∧ t.strm = s.strm ∧ t.value = s.value ∧ t.draws = s.draws ∧
      SameOutsideDecode s t) ∧
    (∀ f : FecW1, ∃ t, exec (.fecW1 f) s = .next t ∧
      t.fec = { s.fec with e := f.e, ptRecovery := f.ptRecovery, mask := f.mask } ∧
      t.phase = .wire .fecTsrec ∧ t.pkt = s.pkt ∧ t.strm = s.strm ∧ t.value = s.value ∧ t.draws = s.draws ∧
      SameOutsideDecode s t) ∧
    (∀ v : U32, ∃ t, exec (.fecTsrec v) s = .next t ∧ t.fec = { s.fec with tsRecovery := v } ∧
      t.phase = .wire .fecW2 ∧ t.pkt = s.pkt ∧ t.strm = s.strm ∧ t.value = s.value ∧ t.draws = s.draws ∧
      SameOutsideDecode s t) ∧
    (∀ f : FecW2, ∃ t, exec (.fecW2 f) s = .next t ∧
      t.fec = { s.fec with x := f.x, d := f.d, type := f.type, index := f.index, offset := f.offset, na := f.na,
                           snBaseExt := f.snBaseExt } ∧
      t.pkt = s.pkt ∧ t.strm = s.strm ∧ t.draws = s.draws ∧ SameOutsideDecode s t ∧
      (s.strm.ok = true → t.phase = .respond 0b0000 ∧ t.value = .fecHeader t.fec) ∧
      (s.strm.ok = false → t.phase = .respond 0b1000 ∧ t.value = .count 0))

/-- The row FEC.ACCEPTED is met exactly in the headers that the profile of R131 accepts, and running it puts the header
of R87 into the FEC registers. It is answered `Ok` with that header, or `Truncated` where a read had run off the end. -/
def Obligations.AcceptedRowIsTheProfile : Prop :=
  (∀ bytes : List Byte, 16 ≤ bytes.length →
    ((∃ i rest, decode (.wire .fecAccepted) bytes = .ok (i, rest)) ↔ fecProfile (closedFecHeader bytes) = true)) ∧
  (∀ (bytes rest : List Byte) (i : Instr) (s : State), decode (.wire .fecAccepted) bytes = .ok (i, rest) →
    s.strm.ok = true → ∃ t, exec i s = .next t ∧ t.fec = closedFecHeader bytes ∧
      t.phase = .respond 0b0000 ∧ t.value = .fecHeader (closedFecHeader bytes) ∧
      t.pkt = s.pkt ∧ t.strm = s.strm ∧ t.draws = s.draws ∧ SameOutsideDecode s t) ∧
  (∀ (f : FecAccepted) (s : State), ∃ t, exec (.fecAccepted f) s = .next t ∧
      t.fec.snBaseLow = f.snBaseLow ∧ t.fec.lengthRecovery = f.lengthRecovery ∧ t.fec.ptRecovery = f.ptRecovery ∧
      t.fec.tsRecovery = f.tsRecovery ∧ t.fec.d = f.d ∧ t.fec.offset = f.offset ∧ t.fec.na = f.na ∧
      fecProfile t.fec = true ∧
      t.pkt = s.pkt ∧ t.strm = s.strm ∧ t.draws = s.draws ∧ SameOutsideDecode s t ∧
      (s.strm.ok = true → t.phase = .respond 0b0000 ∧ t.value = .fecHeader t.fec) ∧
      (s.strm.ok = false → t.phase = .respond 0b1000 ∧ t.value = .count 0))

/-- The row FEC.ACCEPTED run over a whole buffer, whatever the draws are: under sixteen bytes `Truncated` (R130),
outside the profile `UnsupportedProfile` (R164), otherwise `Ok` with the header. That the row runs by itself is the
model's choice (log 4). -/
def Obligations.AcceptedRowOverABuffer : Prop :=
  ∀ (buf : List Byte) (s : State), s.params.legal = true →
    ∃ t, runSteps 2 (placeWord .fecAccepted buf s) = .next t ∧
      (if buf.length < 16 then AnsweredOnly 0b1000 (.count 0) s t
       else if fecProfile (closedFecHeader buf) then AnsweredOnly 0b0000 (.fecHeader (closedFecHeader buf)) s t
       else AnsweredOnly 0b1010 (.count 0) s t)

/-- R132: `FEC.LAST` is `base + offset*(na-1)` over the integers, reduced once; so with `na = 0` it is `base - offset`. For `na = 0`,
and for a product above 32767, this rests on the spec's decision D18 (U6). -/
def Obligations.FecLastFormula : Prop :=
  ∀ h : FecHeader,
    ((fecLast h).toNat : Int) = ((h.snBaseLow.toNat : Int) + h.offset.toNat * ((h.na.toNat : Int) - 1)) % 65536 ∧
    (h.na = 0 → fecLast h = h.snBaseLow - h.offset.setWidth 16) ∧
    (h.na = 1 ∨ h.offset = 0 → fecLast h = h.snBaseLow)

/-- What staleness says (R133, D19): as long as the range and its lag together stay within half the sequence space, a
stale header's protected numbers (R132) all lie at or before the cursor; one that is not stale has one after it. For a
product above 32767 it rests on D18 (U6). -/
def Obligations.StaleIsTheWholeRange : Prop :=
  ∀ (h : FecHeader) (c : SeqNum), 1 ≤ h.na.toNat →
    (h.offset.toNat * (h.na.toNat - 1) : Int) - dist (fecLast h) c ≤ 32768 →
    (fecStale h c = true ↔
      ∀ k : Nat, k < h.na.toNat → dist (h.snBaseLow + BitVec.ofNat 16 (h.offset.toNat * k)) c ≤ 0)

/-! ### The distance comparator (42_seqdist.md) -/

/-- R150: subtract modulo 2^16, then read the pattern as signed. -/
def Obligations.DistIsWrappedSignedDifference : Prop :=
  ∀ a b : SeqNum,
    dist a b = if ((a.toNat : Int) - b.toNat) % 65536 ≤ 32767 then ((a.toNat : Int) - b.toNat) % 65536
               else ((a.toNat : Int) - b.toNat) % 65536 - 65536

/-- Laws 1 to 4 of R152, and the magnitude of R151: only the antipode has a magnitude above 32767. -/
def Obligations.DistanceLaws : Prop :=
  (∀ a b : SeqNum, dist a b = 0 ↔ a = b) ∧
  (∀ a b : SeqNum, dist a b ≠ -32768 → dist a b = -dist b a) ∧
  (∀ a b : SeqNum, dist a b = -32768 → dist b a = -32768) ∧
  (∀ (a : SeqNum) (k : Nat), k ≤ 32767 → dist (a + BitVec.ofNat 16 k) a = k) ∧
  (∀ (a : SeqNum) (k : Nat), 32768 ≤ k → k ≤ 65535 → dist (a + BitVec.ofNat 16 k) a = (k : Int) - 65536) ∧
  (∀ (a : SeqNum) (i j : Nat), i ≤ 32767 → j ≤ 32767 →
    dist (a + BitVec.ofNat 16 i) (a + BitVec.ofNat 16 j) = (i : Int) - j) ∧
  (∀ a b : SeqNum, absd (dist a b) ≤ 32768 ∧ (absd (dist a b) = 32768 ↔ a - b = 0x8000))

/-- R153: `SEQDIST` answers `Ok` with the distance and writes nothing. -/
def Obligations.SeqdistResult : Prop :=
  ∀ (a b : SeqNum) (s : State), ∃ t, exec (.seqdist a b) s = .next t ∧
    AnsweredOnly 0b0000 (.distance (a - b).toInt) s t ∧ t.draws = s.draws

/-! ### The insertion controller (43_enqueue.md) -/

/-- R163: what the backward scan answers, in terms of the keys, front first. Every entry it has passed lies after the
candidate and inside the window; the entry it stops at decides. -/
def Obligations.InsertScanAnswer : Prop :=
  ∀ (m : Nat) (key : Packet → SeqNum) (l : List Packet) (c : SeqNum),
    match insertScan m key l c with
    | .insertAt pos => pos ≤ l.length ∧
        (∀ (i : Nat) (e : Packet), pos ≤ i → l[i]? = some e → 0 < dist (key e) c ∧ absd (dist (key e) c) ≤ m) ∧
        (∀ e : Packet, 0 < pos → l[pos - 1]? = some e → dist (key e) c < 0 ∧ absd (dist (key e) c) ≤ m)
    | .duplicate => ∃ (i : Nat) (e : Packet), l[i]? = some e ∧ key e = c ∧
        (∀ (j : Nat) (x : Packet), i < j → l[j]? = some x → 0 < dist (key x) c ∧ absd (dist (key x) c) ≤ m)
    | .outOfWindow => ∃ (i : Nat) (e : Packet), l[i]? = some e ∧ absd (dist (key e) c) > m ∧
        (∀ (j : Nat) (x : Packet), i < j → l[j]? = some x → 0 < dist (key x) c ∧ absd (dist (key x) c) ≤ m)

/-- R161: the whole of `ENQ.DATA`, test by test in the order of the pseudocode. -/
def Obligations.EnqDataResult : Prop :=
  ∀ (buf : List Byte) (s : State), buf.length ≤ s.params.pktMax →
    ∃ t, exec (.enqData buf) s = .next t ∧
      (if isTruncated buf then AnsweredOnly 0b1000 (.count 0) s t
       else if isMalformed buf then AnsweredOnly 0b1001 (.count 0) s t
       else
        let p := closedPacket buf
        if ¬ (p.padding = false ∧ p.extension = false ∧ p.marker = false ∧ p.cc = 0) then
          AnsweredOnly 0b1010 (.count 0) s t
        else if s.dataCount ≥ s.params.dataMax then AnsweredOnly 0b1011 (.count 0) s t
        else
          match insertScan s.params.maxDistance.val (fun e => e.seq) s.data p.seq with
          | .outOfWindow => AnsweredOnly 0b1100 (.count 0) s t
          | .duplicate => AnsweredOnly 0b0001 (.count buf.length) s t
          | .insertAt pos => Answered 0b0000 (.count buf.length) s t ∧
              t.data = s.data.take pos ++ p :: s.data.drop pos ∧ t.dataCount = s.dataCount + 1 ∧
              t.fecl = s.fecl ∧ t.fecCount = s.fecCount ∧ t.cursor = s.cursor)

/-- R164: the whole of `ENQ.FEC`, test by test in the order of the pseudocode. For a header with `na = 0` or a product
above 32767 the stale test rests on D18 (U6). -/
def Obligations.EnqFecResult : Prop :=
  ∀ (buf : List Byte) (s : State), buf.length ≤ s.params.pktMax →
    ∃ t, exec (.enqFec buf) s = .next t ∧
      (if isTruncated buf then AnsweredOnly 0b1000 (.count 0) s t
       else if isMalformed buf then AnsweredOnly 0b1001 (.count 0) s t
       else
        let p := closedPacket buf
        let h := closedFecHeader p.payload
        if ¬ (p.padding = false ∧ p.extension = false ∧ p.marker = false ∧ p.cc = 0 ∧ p.pt = 96) then
          AnsweredOnly 0b1010 (.count 0) s t
        else if s.fecCount ≥ s.params.fecMax then AnsweredOnly 0b1011 (.count 0) s t
        else if p.payload.length < 16 then AnsweredOnly 0b1000 (.count 0) s t
        else if ¬ (h.x = false ∧ h.mask = 0 ∧ h.type = 0 ∧ h.index = 0 ∧ h.snBaseExt = 0 ∧ h.e = true) then
          AnsweredOnly 0b1010 (.count 0) s t
        else if s.cursor.any (fun c => decide (dist (fecLast h) c ≤ 0)) then AnsweredOnly 0b0001 (.count buf.length) s t
        else
          match insertScan s.params.maxDistance.val fecKey s.fecl h.snBaseLow with
          | .outOfWindow => AnsweredOnly 0b1100 (.count 0) s t
          | .duplicate => AnsweredOnly 0b0001 (.count buf.length) s t
          | .insertAt pos => Answered 0b0000 (.count buf.length) s t ∧
              t.fecl = s.fecl.take pos ++ { p with fec := some h } :: s.fecl.drop pos ∧
              t.fecCount = s.fecCount + 1 ∧
              t.data = s.data ∧ t.dataCount = s.dataCount ∧ t.cursor = s.cursor)

/-- R166: a rejected or ignored enqueue changes nothing; neither path touches the other's store or the cursor; neither
evicts. -/
def Obligations.EnqueueFrame : Prop :=
  ∀ (buf : List Byte) (s t : State),
    (exec (.enqData buf) s = .next t →
      t.fecl = s.fecl ∧ t.fecCount = s.fecCount ∧ t.cursor = s.cursor ∧ s.data.Sublist t.data ∧
      SameSurroundings s t ∧
      (∀ r, t.response = some r → r.status ≠ 0b0000 → SamePersistent s t)) ∧
    (exec (.enqFec buf) s = .next t →
      t.data = s.data ∧ t.dataCount = s.dataCount ∧ t.cursor = s.cursor ∧ s.fecl.Sublist t.fecl ∧
      SameSurroundings s t ∧
      (∀ r, t.response = some r → r.status ≠ 0b0000 → SamePersistent s t))

/-! ### The drain and the evictions (44_read_flush.md) -/

/-- R190 with R191 to R193: the whole of `READ`, where the list is empty or the cursor's entry exists (R31 I4). `j` is the
index of an entry with the cursor's number, the only one under R31 I2 (otherwise one that a free value takes, log 7).
What is stale for a header with `na = 0` or a product above 32767 rests on D18 (U6). -/
def Obligations.ReadResult : Prop :=
  ∀ s : State, (s.data = [] ∨ CursorStored s) →
    ∃ t, exec .read s = .next t ∧
      ((AnsweredOnly 0b0011 .none s t ∧
        (s.data = [] ∨
         ∃ c j, s.cursor = some c ∧ (s.data.map (fun e => e.seq))[j]? = some c ∧
           (s.data.length = j + 1 ∨ ∃ e, s.data[j + 1]? = some e ∧ dist e.seq c ≠ 1))) ∨
       (∃ e : Packet, Answered 0b0010 (.bytes e.payload) s t ∧
        ((s.cursor = none ∧ s.data[0]? = some e) ∨
         ∃ c j, s.cursor = some c ∧ (s.data.map (fun e => e.seq))[j]? = some c ∧ s.data[j + 1]? = some e ∧
           dist e.seq c = 1) ∧
        t.cursor = some e.seq ∧
        t.data = s.data.dropWhile (fun x : Packet => decide (dist e.seq x.seq > (s.params.historyWindow.val : Int))) ∧
        t.dataCount = s.dataCount - (s.data.length - t.data.length) ∧
        t.fecl = s.fecl.dropWhile (fun x => fecEntryStale e.seq x) ∧
        t.fecCount = s.fecCount - (s.fecl.length - t.fecl.length)))

/-- Where `READ` stops: it answers a next state exactly when the list is empty or a set cursor has an entry (R31 I4);
otherwise it stops with the fault that names the missing entry. -/
def Obligations.ReadStopsOnlyWithoutCursorEntry : Prop :=
  ∀ s : State,
    ((s.data = [] ∨ CursorStored s) → ∃ t, exec .read s = .next t) ∧
    (¬ (s.data = [] ∨ CursorStored s) → exec .read s = .fault .cursorEntryMissing)

/-- R194 items 1 and 4: after a delivery of S the entry of S is still stored, and no more than `HISTORY_WINDOW` before
it the oldest entry stands; what is gone was further behind, and nothing new came in. -/
def Obligations.DeliveryEvictsOnlyOldEntries : Prop :=
  ∀ (s t : State) (c : SeqNum) (r : Response), exec .read s = .next t → t.response = some r → r.status = 0b0010 →
    t.cursor = some c →
    (∃ e ∈ t.data, e.seq = c) ∧
    (∀ e, t.data[0]? = some e → dist c e.seq ≤ (s.params.historyWindow.val : Int)) ∧
    (∃ gone, s.data = gone ++ t.data ∧ ∀ e ∈ gone, dist c e.seq > (s.params.historyWindow.val : Int)) ∧
    (∃ gone, s.fecl = gone ++ t.fecl ∧ ∀ e ∈ gone, fecEntryStale c e = true)

/-- R194 item 2: after the first delivery, a delivery moves the cursor on by exactly one, modulo 2^16. -/
def Obligations.DeliveriesAreConsecutive : Prop :=
  ∀ (s t : State) (c : SeqNum) (r : Response), s.cursor = some c → exec .read s = .next t → t.response = some r →
    r.status = 0b0010 → t.cursor = some (c + 1)

/-- R194 item 6: `NotReady` changes nothing, and a `READ` right after it is `NotReady` again, whatever the parameters. -/
def Obligations.NotReadyRepeats : Prop :=
  ∀ (s t : State) (r : Response), exec .read s = .next t → t.response = some r → r.status = 0b0011 →
    SamePersistent s t ∧ ∃ u, exec .read t = .next u ∧ u.response = some { status := 0b0011, value := .none }

/-- R194 item 5: entries with consecutive numbers, wherever they start and across 65535, none delivered yet: as many
`READ`s as there are entries deliver them all in order, whatever is evicted meanwhile, and one more is `NotReady`. -/
def Obligations.DrainDeliversInOrder : Prop :=
  ∀ (s : State) (c : SeqNum), s.cursor = none → s.data.length ≤ 32768 →
    (∀ (i : Nat) (e : Packet), s.data[i]? = some e → e.seq = c + BitVec.ofNat 16 i) →
    ∃ u, readMany (s.data.length + 1) s =
      some (s.data.map (fun e => some { status := 0b0010, value := .bytes e.payload }) ++
              [some { status := 0b0011, value := .none }], u)

/-- R244: with a full DATA store and `READ` answering `NotReady`, no run of commands, however long, changes the DATA
store, its count or the cursor, and `READ` goes on answering `NotReady`; only reset is left out. -/
def Obligations.FullStoreBehindGapIsLocked : Prop :=
  ∀ (s : State), s.phase = .port → s.params.dataMax ≤ s.dataCount →
    (∃ t, exec .read s = .next t ∧ t.response = some { status := 0b0011, value := .none }) →
    (∀ e ∈ s.pending, e ≠ .reset) →
    ∀ (k : Nat) (t : State), runSteps k s = .next t →
      t.data = s.data ∧ t.dataCount = s.dataCount ∧ t.cursor = s.cursor ∧
      ∃ u, exec .read t = .next u ∧ u.response = some { status := 0b0011, value := .none }

/-! ### Rejections and responses (60_exceptions.md, R82) -/

/-- A rejection leaves the persistent state as it was, discards the transient registers, and its response carries one of
the five reason codes and the value 0 (R214, R211; what a discarded register holds is the model's choice, log 9). -/
def Obligations.RejectionChangesNothing : Prop :=
  ∀ (i : Instr) (s t : State) (r : Response), i.slot = .port → exec i s = .next t → t.response = some r →
    r.status.msb = true →
    SamePersistent s t ∧ AtBoundary t ∧ SameSurroundings s t ∧ r.value = .count 0 ∧
    (r.status = 0b1000 ∨ r.status = 0b1001 ∨ r.status = 0b1010 ∨ r.status = 0b1011 ∨ r.status = 0b1100)

/-- R210, R215: after a rejection the next command runs as if the rejected one had never been issued: same outcome,
same next state. Only the model's own count of draws may tell (log 5), and no outcome depends on it. -/
def Obligations.RejectedCommandLeavesNoTrace : Prop :=
  ∀ (i j : Instr) (s t : State) (r : Response), i.slot = .port → j.slot = .port → exec i s = .next t →
    t.response = some r → r.status.msb = true → forgetDraws (exec j t) = forgetDraws (exec j s)

/-- The "given by" column of R82: the statuses each command can answer. -/
def Obligations.StatusesOfEachCommand : Prop :=
  ∀ (i : Instr) (s t : State), i.slot = .port → exec i s = .next t → ∃ r, t.response = some r ∧
    match i with
    | .read => r.status ∈ [0b0010, 0b0011]
    | .enqData _ => r.status ∈ [0b0000, 0b0001, 0b1000, 0b1001, 0b1010, 0b1011, 0b1100]
    | .enqFec _ => r.status ∈ [0b0000, 0b0001, 0b1000, 0b1001, 0b1010, 0b1011, 0b1100]
    | .decRtp _ => r.status ∈ [0b0000, 0b1000, 0b1001]
    | .decFec _ => r.status ∈ [0b0000, 0b1000]
    | .seqdist _ _ => r.status = 0b0000
    | _ => False

/-- The row RESPONSE.STATUS (R82): a code that is produced becomes the status of the response, beside the value that
R82 gives it, and the block is at a boundary; a code that is never produced is refused. -/
def Obligations.StatusRow : Prop :=
  ∀ (r : Bool) (code : BitVec 3) (s : State),
    (statusProduced (statusWord r code) = true → ∃ t, exec (.responseStatus r code) s = .next t ∧
      (r = true → AnsweredOnly (statusWord r code) (.count 0) s t) ∧
      (r = false → code = 3 → AnsweredOnly 0b0011 .none s t) ∧
      (r = false → code ≠ 3 → AnsweredOnly (statusWord r code) s.value s t)) ∧
    (statusProduced (statusWord r code) = false →
      exec (.responseStatus r code) s = .refused (.statusNeverProduced (statusWord r code)))

/-! ### Reset (70_reset_and_hazards.md, R33) -/

/-- R240, R33: the values after reset; and the reset input, taken at a boundary, leaves exactly those, whatever was
stored before: two states with the same parameters and the same events to come cannot be told apart after it (but for
how many free values were drawn). -/
def Obligations.ResetForgets : Prop :=
  (State.reset.data = [] ∧ State.reset.fecl = [] ∧ State.reset.dataCount = 0 ∧ State.reset.fecCount = 0 ∧
    State.reset.cursor = none) ∧
  (∀ (s : State) (rest : List HostEvent), s.params.legal = true → s.phase = .port → s.pending = .reset :: rest →
    ∃ t, step s = .next t ∧ t.data = [] ∧ t.fecl = [] ∧ t.dataCount = 0 ∧ t.fecCount = 0 ∧ t.cursor = none ∧
      AtBoundary t ∧ t.response = none ∧ t.params = s.params ∧ t.pending = rest) ∧
  (∀ (s₁ s₂ t₁ t₂ : State) (rest : List HostEvent), s₁.phase = .port → s₂.phase = .port → s₁.params = s₂.params →
    s₁.pending = .reset :: rest → s₂.pending = .reset :: rest → step s₁ = .next t₁ → step s₂ = .next t₂ →
    t₁.setDraws 0 = t₂.setDraws 0)

/-! ### Whole-machine rules and invariants (10_state.md) -/

/-- R23, R24, R26: only `READ` writes the cursor; only `ENQ.DATA` and the `FLUSH` of `READ` change the DATA list, only
`ENQ.FEC` and that `FLUSH` the FEC list; no instruction touches the parameters or the host's events. -/
def Obligations.WhoWritesTheStores : Prop :=
  ∀ (i : Instr) (s t : State), exec i s = .next t →
    SameSurroundings s t ∧
    (i ≠ .read → t.cursor = s.cursor) ∧
    (i ≠ .read → (∀ buf, i ≠ .enqData buf) → t.data = s.data ∧ t.dataCount = s.dataCount) ∧
    (i ≠ .read → (∀ buf, i ≠ .enqFec buf) → t.fecl = s.fecl ∧ t.fecCount = s.fecCount)

/-- R20: "No command can read a transient register left by an earlier command." Whatever the reader, packet and FEC
registers hold, and wherever the block is said to stand, a command has the same outcome. -/
def Obligations.CommandsReadNoTransient : Prop :=
  ∀ (i : Instr) (s : State) (x : Stream) (y : PktRegs) (z : FecHeader) (v : Value) (p : Phase), i.slot = .port →
    exec i (((((s.setStrm x).setPkt y).setFec z).setValue v).setPhase p) = exec i s

/-- R54, R7: no command's outcome depends on the draws, whatever the parameters: whichever free values come next, the
outcome and everything in the next state but the model's own count of them are the same. -/
def Obligations.DrawsDecideNothing : Prop :=
  ∀ (i : Instr) (s : State) (n : Nat), i.slot = .port → forgetDraws (exec i (s.setDraws n)) = forgetDraws (exec i s)

/-- R26: once the cursor is set, no step makes it absent again but the reset input. -/
def Obligations.CursorLostOnlyByReset : Prop :=
  ∀ s t : State, step s = .next t → s.cursor ≠ none → t.cursor = none →
    s.phase = .port ∧ ∃ rest, s.pending = .reset :: rest

/-- A command is one transition (R60): whatever was in the transient registers before it, after it they hold nothing of it
(R20; what they hold instead is the model's choice, log 9). A step from a command boundary ends at one, and no step
changes the parameters (R6). -/
def Obligations.StepsKeepBoundaryAndParameters : Prop :=
  (∀ (i : Instr) (s t : State), i.slot = .port → exec i s = .next t → AtBoundary t) ∧
  (∀ s t : State, AtBoundary s → step s = .next t → AtBoundary t) ∧
  (∀ s t : State, step s = .next t → t.params = s.params)

/-- The invariant of the stores is kept by every step from every state that has it, whatever the parameters: the gaps of
both lists, the cursor's entry (I4), the counts (I5), and what is stored (I6, I7). -/
def Obligations.StepKeepsStoreInvariant : Prop :=
  ∀ s t : State, StoreInv s → step s = .next t → StoreInv t

/-- The invariant holds right after reset. -/
def Obligations.ResetHasStoreInvariant : Prop := StoreInv State.reset ∧ AtBoundary State.reset

/-- Under the parameter condition of R7 the invariant of the stores gives the order invariants of R31: strict order from
the first element and distinct keys, in both lists. -/
def Obligations.StoreInvariantGivesOrder : Prop :=
  ∀ s : State, s.params.ordered → StoreInv s → SpecInvariants s

/-- R31: under the condition of R7 its invariants hold after every run from reset, for every block and for whatever the
host presents. -/
def Obligations.SpecInvariantsHoldOnEveryRun : Prop :=
  ∀ (p : Params) (events : List HostEvent) (k : Nat) (t : State), p.ordered →
    runSteps k (startState p events) = .next t → SpecInvariants t
end

