-- ==== Sys2Proof/Laws/Decode.lean ====
section
/-! SUPPORT. The operand `len` of a command frame: decoding gives back what was encoded, and how many bytes it takes. -/

namespace Sys2Proof

/-- A last byte of `len`. -/
theorem decodeLen_last {n : Nat} (h : n < 128) (rest : List Byte) :
    decodeLen (BitVec.ofNat 8 n :: rest) = some (n, rest) := by
  have hb : bitAt (BitVec.ofNat 8 n) 7 = false := by
    rw [bitAt, BitVec.getLsbD_ofNat, Nat.testBit_lt_two_pow h, Bool.and_false]
  have hv : (bitsAt (BitVec.ofNat 8 n) 0 7).toNat = n := by
    simp only [bitsAt, BitVec.extractLsb'_toNat, BitVec.toNat_ofNat, Nat.shiftRight_zero]
    omega
  rw [decodeLen, hb, hv]
  rfl

/-- A byte of `len` with others after it. -/
theorem decodeLen_more {n high : Nat} {bytes rest : List Byte} (h : n < 128)
    (hh : decodeLen bytes = some (high, rest)) :
    decodeLen (BitVec.ofNat 8 (128 + n) :: bytes) = some (n + 128 * high, rest) := by
  have hb : bitAt (BitVec.ofNat 8 (128 + n)) 7 = true := by
    have hbit : (2 ^ 7 + n).testBit 7 = true := by
      rw [Nat.testBit_two_pow_add_eq, Nat.testBit_lt_two_pow h]
      rfl
    rw [bitAt, BitVec.getLsbD_ofNat]
    exact hbit
  have hv : (bitsAt (BitVec.ofNat 8 (128 + n)) 0 7).toNat = n := by
    simp only [bitsAt, BitVec.extractLsb'_toNat, BitVec.toNat_ofNat, Nat.shiftRight_zero]
    omega
  rw [decodeLen, hb, hv, hh]
  rfl

theorem decodeLen_encodeLenWithin {more len : Nat} (h : len < 128 ^ (more + 1)) (rest : List Byte) :
    decodeLen (encodeLenWithin more len ++ rest) = some (len, rest) := by
  induction more generalizing len with
  | zero =>
    have hl : len < 128 := by simpa using h
    rw [encodeLenWithin, Nat.mod_eq_of_lt hl]
    exact decodeLen_last hl rest
  | succ more ih =>
    rw [encodeLenWithin]
    split
    · rename_i hl
      exact decodeLen_last hl rest
    · have hq : len / 128 < 128 ^ (more + 1) := Nat.div_lt_of_lt_mul (by rw [← Nat.pow_succ']; exact h)
      have := decodeLen_more (Nat.mod_lt len (by decide)) (ih hq)
      rwa [Nat.mod_add_div] at this

theorem lt_lenPow (len : Nat) : len < 128 ^ (len + 1) :=
  (Nat.lt_succ_self len).trans (Nat.lt_pow_self (by decide))

/-- Whatever the length is, its bytes give it back. -/
theorem decodeLen_encodeLen (len : Nat) (rest : List Byte) : decodeLen (encodeLen len ++ rest) = some (len, rest) :=
  decodeLen_encodeLenWithin (lt_lenPow len) rest

theorem length_encodeLenWithin {more len : Nat} (h : len < 128 ^ (more + 1)) :
    (encodeLenWithin more len).length = Nat.log 128 len + 1 := by
  induction more generalizing len with
  | zero =>
    have hl : len < 128 := by simpa using h
    rw [encodeLenWithin, Nat.log_of_lt hl]
    rfl
  | succ more ih =>
    rw [encodeLenWithin]
    split
    · rename_i hl
      rw [Nat.log_of_lt hl]
      rfl
    · rename_i hl
      have hq : len / 128 < 128 ^ (more + 1) := Nat.div_lt_of_lt_mul (by rw [← Nat.pow_succ']; exact h)
      rw [List.length_cons, ih hq, Nat.log_of_one_lt_of_le (by decide) (Nat.le_of_not_lt hl)]

/-- One byte for each seven bits. -/
theorem length_encodeLen (len : Nat) : (encodeLen len).length = Nat.log 128 len + 1 :=
  length_encodeLenWithin (lt_lenPow len)

end Sys2Proof
end

