-- ==== Sys2Proof/Laws/State.lean ====
section
/-! SUPPORT. One lemma for each field under each named update of the state. -/

namespace Sys2Proof.Machine.State

variable (s : State)

@[simp] theorem setData_params (l : List Packet) (n : Nat) : (s.setData l n).params = s.params := rfl
@[simp] theorem setData_data (l : List Packet) (n : Nat) : (s.setData l n).data = l := rfl
@[simp] theorem setData_fecl (l : List Packet) (n : Nat) : (s.setData l n).fecl = s.fecl := rfl
@[simp] theorem setData_dataCount (l : List Packet) (n : Nat) : (s.setData l n).dataCount = n := rfl
@[simp] theorem setData_fecCount (l : List Packet) (n : Nat) : (s.setData l n).fecCount = s.fecCount := rfl
@[simp] theorem setData_cursor (l : List Packet) (n : Nat) : (s.setData l n).cursor = s.cursor := rfl
@[simp] theorem setData_strm (l : List Packet) (n : Nat) : (s.setData l n).strm = s.strm := rfl
@[simp] theorem setData_pkt (l : List Packet) (n : Nat) : (s.setData l n).pkt = s.pkt := rfl
@[simp] theorem setData_fec (l : List Packet) (n : Nat) : (s.setData l n).fec = s.fec := rfl
@[simp] theorem setData_phase (l : List Packet) (n : Nat) : (s.setData l n).phase = s.phase := rfl
@[simp] theorem setData_value (l : List Packet) (n : Nat) : (s.setData l n).value = s.value := rfl
@[simp] theorem setData_response (l : List Packet) (n : Nat) : (s.setData l n).response = s.response := rfl
@[simp] theorem setData_pending (l : List Packet) (n : Nat) : (s.setData l n).pending = s.pending := rfl
@[simp] theorem setData_draws (l : List Packet) (n : Nat) : (s.setData l n).draws = s.draws := rfl

@[simp] theorem setFecl_params (l : List Packet) (n : Nat) : (s.setFecl l n).params = s.params := rfl
@[simp] theorem setFecl_data (l : List Packet) (n : Nat) : (s.setFecl l n).data = s.data := rfl
@[simp] theorem setFecl_fecl (l : List Packet) (n : Nat) : (s.setFecl l n).fecl = l := rfl
@[simp] theorem setFecl_dataCount (l : List Packet) (n : Nat) : (s.setFecl l n).dataCount = s.dataCount := rfl
@[simp] theorem setFecl_fecCount (l : List Packet) (n : Nat) : (s.setFecl l n).fecCount = n := rfl
@[simp] theorem setFecl_cursor (l : List Packet) (n : Nat) : (s.setFecl l n).cursor = s.cursor := rfl
@[simp] theorem setFecl_strm (l : List Packet) (n : Nat) : (s.setFecl l n).strm = s.strm := rfl
@[simp] theorem setFecl_pkt (l : List Packet) (n : Nat) : (s.setFecl l n).pkt = s.pkt := rfl
@[simp] theorem setFecl_fec (l : List Packet) (n : Nat) : (s.setFecl l n).fec = s.fec := rfl
@[simp] theorem setFecl_phase (l : List Packet) (n : Nat) : (s.setFecl l n).phase = s.phase := rfl
@[simp] theorem setFecl_value (l : List Packet) (n : Nat) : (s.setFecl l n).value = s.value := rfl
@[simp] theorem setFecl_response (l : List Packet) (n : Nat) : (s.setFecl l n).response = s.response := rfl
@[simp] theorem setFecl_pending (l : List Packet) (n : Nat) : (s.setFecl l n).pending = s.pending := rfl
@[simp] theorem setFecl_draws (l : List Packet) (n : Nat) : (s.setFecl l n).draws = s.draws := rfl

@[simp] theorem setCursor_params (x : Option SeqNum) : (s.setCursor x).params = s.params := rfl
@[simp] theorem setCursor_data (x : Option SeqNum) : (s.setCursor x).data = s.data := rfl
@[simp] theorem setCursor_fecl (x : Option SeqNum) : (s.setCursor x).fecl = s.fecl := rfl
@[simp] theorem setCursor_dataCount (x : Option SeqNum) : (s.setCursor x).dataCount = s.dataCount := rfl
@[simp] theorem setCursor_fecCount (x : Option SeqNum) : (s.setCursor x).fecCount = s.fecCount := rfl
@[simp] theorem setCursor_cursor (x : Option SeqNum) : (s.setCursor x).cursor = x := rfl
@[simp] theorem setCursor_strm (x : Option SeqNum) : (s.setCursor x).strm = s.strm := rfl
@[simp] theorem setCursor_pkt (x : Option SeqNum) : (s.setCursor x).pkt = s.pkt := rfl
@[simp] theorem setCursor_fec (x : Option SeqNum) : (s.setCursor x).fec = s.fec := rfl
@[simp] theorem setCursor_phase (x : Option SeqNum) : (s.setCursor x).phase = s.phase := rfl
@[simp] theorem setCursor_value (x : Option SeqNum) : (s.setCursor x).value = s.value := rfl
@[simp] theorem setCursor_response (x : Option SeqNum) : (s.setCursor x).response = s.response := rfl
@[simp] theorem setCursor_pending (x : Option SeqNum) : (s.setCursor x).pending = s.pending := rfl
@[simp] theorem setCursor_draws (x : Option SeqNum) : (s.setCursor x).draws = s.draws := rfl

@[simp] theorem setStrm_params (x : Stream) : (s.setStrm x).params = s.params := rfl
@[simp] theorem setStrm_data (x : Stream) : (s.setStrm x).data = s.data := rfl
@[simp] theorem setStrm_fecl (x : Stream) : (s.setStrm x).fecl = s.fecl := rfl
@[simp] theorem setStrm_dataCount (x : Stream) : (s.setStrm x).dataCount = s.dataCount := rfl
@[simp] theorem setStrm_fecCount (x : Stream) : (s.setStrm x).fecCount = s.fecCount := rfl
@[simp] theorem setStrm_cursor (x : Stream) : (s.setStrm x).cursor = s.cursor := rfl
@[simp] theorem setStrm_strm (x : Stream) : (s.setStrm x).strm = x := rfl
@[simp] theorem setStrm_pkt (x : Stream) : (s.setStrm x).pkt = s.pkt := rfl
@[simp] theorem setStrm_fec (x : Stream) : (s.setStrm x).fec = s.fec := rfl
@[simp] theorem setStrm_phase (x : Stream) : (s.setStrm x).phase = s.phase := rfl
@[simp] theorem setStrm_value (x : Stream) : (s.setStrm x).value = s.value := rfl
@[simp] theorem setStrm_response (x : Stream) : (s.setStrm x).response = s.response := rfl
@[simp] theorem setStrm_pending (x : Stream) : (s.setStrm x).pending = s.pending := rfl
@[simp] theorem setStrm_draws (x : Stream) : (s.setStrm x).draws = s.draws := rfl

@[simp] theorem setPkt_params (x : PktRegs) : (s.setPkt x).params = s.params := rfl
@[simp] theorem setPkt_data (x : PktRegs) : (s.setPkt x).data = s.data := rfl
@[simp] theorem setPkt_fecl (x : PktRegs) : (s.setPkt x).fecl = s.fecl := rfl
@[simp] theorem setPkt_dataCount (x : PktRegs) : (s.setPkt x).dataCount = s.dataCount := rfl
@[simp] theorem setPkt_fecCount (x : PktRegs) : (s.setPkt x).fecCount = s.fecCount := rfl
@[simp] theorem setPkt_cursor (x : PktRegs) : (s.setPkt x).cursor = s.cursor := rfl
@[simp] theorem setPkt_strm (x : PktRegs) : (s.setPkt x).strm = s.strm := rfl
@[simp] theorem setPkt_pkt (x : PktRegs) : (s.setPkt x).pkt = x := rfl
@[simp] theorem setPkt_fec (x : PktRegs) : (s.setPkt x).fec = s.fec := rfl
@[simp] theorem setPkt_phase (x : PktRegs) : (s.setPkt x).phase = s.phase := rfl
@[simp] theorem setPkt_value (x : PktRegs) : (s.setPkt x).value = s.value := rfl
@[simp] theorem setPkt_response (x : PktRegs) : (s.setPkt x).response = s.response := rfl
@[simp] theorem setPkt_pending (x : PktRegs) : (s.setPkt x).pending = s.pending := rfl
@[simp] theorem setPkt_draws (x : PktRegs) : (s.setPkt x).draws = s.draws := rfl

@[simp] theorem setFec_params (x : FecHeader) : (s.setFec x).params = s.params := rfl
@[simp] theorem setFec_data (x : FecHeader) : (s.setFec x).data = s.data := rfl
@[simp] theorem setFec_fecl (x : FecHeader) : (s.setFec x).fecl = s.fecl := rfl
@[simp] theorem setFec_dataCount (x : FecHeader) : (s.setFec x).dataCount = s.dataCount := rfl
@[simp] theorem setFec_fecCount (x : FecHeader) : (s.setFec x).fecCount = s.fecCount := rfl
@[simp] theorem setFec_cursor (x : FecHeader) : (s.setFec x).cursor = s.cursor := rfl
@[simp] theorem setFec_strm (x : FecHeader) : (s.setFec x).strm = s.strm := rfl
@[simp] theorem setFec_pkt (x : FecHeader) : (s.setFec x).pkt = s.pkt := rfl
@[simp] theorem setFec_fec (x : FecHeader) : (s.setFec x).fec = x := rfl
@[simp] theorem setFec_phase (x : FecHeader) : (s.setFec x).phase = s.phase := rfl
@[simp] theorem setFec_value (x : FecHeader) : (s.setFec x).value = s.value := rfl
@[simp] theorem setFec_response (x : FecHeader) : (s.setFec x).response = s.response := rfl
@[simp] theorem setFec_pending (x : FecHeader) : (s.setFec x).pending = s.pending := rfl
@[simp] theorem setFec_draws (x : FecHeader) : (s.setFec x).draws = s.draws := rfl

@[simp] theorem setPhase_params (x : Phase) : (s.setPhase x).params = s.params := rfl
@[simp] theorem setPhase_data (x : Phase) : (s.setPhase x).data = s.data := rfl
@[simp] theorem setPhase_fecl (x : Phase) : (s.setPhase x).fecl = s.fecl := rfl
@[simp] theorem setPhase_dataCount (x : Phase) : (s.setPhase x).dataCount = s.dataCount := rfl
@[simp] theorem setPhase_fecCount (x : Phase) : (s.setPhase x).fecCount = s.fecCount := rfl
@[simp] theorem setPhase_cursor (x : Phase) : (s.setPhase x).cursor = s.cursor := rfl
@[simp] theorem setPhase_strm (x : Phase) : (s.setPhase x).strm = s.strm := rfl
@[simp] theorem setPhase_pkt (x : Phase) : (s.setPhase x).pkt = s.pkt := rfl
@[simp] theorem setPhase_fec (x : Phase) : (s.setPhase x).fec = s.fec := rfl
@[simp] theorem setPhase_phase (x : Phase) : (s.setPhase x).phase = x := rfl
@[simp] theorem setPhase_value (x : Phase) : (s.setPhase x).value = s.value := rfl
@[simp] theorem setPhase_response (x : Phase) : (s.setPhase x).response = s.response := rfl
@[simp] theorem setPhase_pending (x : Phase) : (s.setPhase x).pending = s.pending := rfl
@[simp] theorem setPhase_draws (x : Phase) : (s.setPhase x).draws = s.draws := rfl

@[simp] theorem setValue_params (x : Value) : (s.setValue x).params = s.params := rfl
@[simp] theorem setValue_data (x : Value) : (s.setValue x).data = s.data := rfl
@[simp] theorem setValue_fecl (x : Value) : (s.setValue x).fecl = s.fecl := rfl
@[simp] theorem setValue_dataCount (x : Value) : (s.setValue x).dataCount = s.dataCount := rfl
@[simp] theorem setValue_fecCount (x : Value) : (s.setValue x).fecCount = s.fecCount := rfl
@[simp] theorem setValue_cursor (x : Value) : (s.setValue x).cursor = s.cursor := rfl
@[simp] theorem setValue_strm (x : Value) : (s.setValue x).strm = s.strm := rfl
@[simp] theorem setValue_pkt (x : Value) : (s.setValue x).pkt = s.pkt := rfl
@[simp] theorem setValue_fec (x : Value) : (s.setValue x).fec = s.fec := rfl
@[simp] theorem setValue_phase (x : Value) : (s.setValue x).phase = s.phase := rfl
@[simp] theorem setValue_value (x : Value) : (s.setValue x).value = x := rfl
@[simp] theorem setValue_response (x : Value) : (s.setValue x).response = s.response := rfl
@[simp] theorem setValue_pending (x : Value) : (s.setValue x).pending = s.pending := rfl
@[simp] theorem setValue_draws (x : Value) : (s.setValue x).draws = s.draws := rfl

@[simp] theorem setResponse_params (x : Option Response) : (s.setResponse x).params = s.params := rfl
@[simp] theorem setResponse_data (x : Option Response) : (s.setResponse x).data = s.data := rfl
@[simp] theorem setResponse_fecl (x : Option Response) : (s.setResponse x).fecl = s.fecl := rfl
@[simp] theorem setResponse_dataCount (x : Option Response) : (s.setResponse x).dataCount = s.dataCount := rfl
@[simp] theorem setResponse_fecCount (x : Option Response) : (s.setResponse x).fecCount = s.fecCount := rfl
@[simp] theorem setResponse_cursor (x : Option Response) : (s.setResponse x).cursor = s.cursor := rfl
@[simp] theorem setResponse_strm (x : Option Response) : (s.setResponse x).strm = s.strm := rfl
@[simp] theorem setResponse_pkt (x : Option Response) : (s.setResponse x).pkt = s.pkt := rfl
@[simp] theorem setResponse_fec (x : Option Response) : (s.setResponse x).fec = s.fec := rfl
@[simp] theorem setResponse_phase (x : Option Response) : (s.setResponse x).phase = s.phase := rfl
@[simp] theorem setResponse_value (x : Option Response) : (s.setResponse x).value = s.value := rfl
@[simp] theorem setResponse_response (x : Option Response) : (s.setResponse x).response = x := rfl
@[simp] theorem setResponse_pending (x : Option Response) : (s.setResponse x).pending = s.pending := rfl
@[simp] theorem setResponse_draws (x : Option Response) : (s.setResponse x).draws = s.draws := rfl

@[simp] theorem setPending_params (x : List HostEvent) : (s.setPending x).params = s.params := rfl
@[simp] theorem setPending_data (x : List HostEvent) : (s.setPending x).data = s.data := rfl
@[simp] theorem setPending_fecl (x : List HostEvent) : (s.setPending x).fecl = s.fecl := rfl
@[simp] theorem setPending_dataCount (x : List HostEvent) : (s.setPending x).dataCount = s.dataCount := rfl
@[simp] theorem setPending_fecCount (x : List HostEvent) : (s.setPending x).fecCount = s.fecCount := rfl
@[simp] theorem setPending_cursor (x : List HostEvent) : (s.setPending x).cursor = s.cursor := rfl
@[simp] theorem setPending_strm (x : List HostEvent) : (s.setPending x).strm = s.strm := rfl
@[simp] theorem setPending_pkt (x : List HostEvent) : (s.setPending x).pkt = s.pkt := rfl
@[simp] theorem setPending_fec (x : List HostEvent) : (s.setPending x).fec = s.fec := rfl
@[simp] theorem setPending_phase (x : List HostEvent) : (s.setPending x).phase = s.phase := rfl
@[simp] theorem setPending_value (x : List HostEvent) : (s.setPending x).value = s.value := rfl
@[simp] theorem setPending_response (x : List HostEvent) : (s.setPending x).response = s.response := rfl
@[simp] theorem setPending_pending (x : List HostEvent) : (s.setPending x).pending = x := rfl
@[simp] theorem setPending_draws (x : List HostEvent) : (s.setPending x).draws = s.draws := rfl

@[simp] theorem setDraws_params (x : Nat) : (s.setDraws x).params = s.params := rfl
@[simp] theorem setDraws_data (x : Nat) : (s.setDraws x).data = s.data := rfl
@[simp] theorem setDraws_fecl (x : Nat) : (s.setDraws x).fecl = s.fecl := rfl
@[simp] theorem setDraws_dataCount (x : Nat) : (s.setDraws x).dataCount = s.dataCount := rfl
@[simp] theorem setDraws_fecCount (x : Nat) : (s.setDraws x).fecCount = s.fecCount := rfl
@[simp] theorem setDraws_cursor (x : Nat) : (s.setDraws x).cursor = s.cursor := rfl
@[simp] theorem setDraws_strm (x : Nat) : (s.setDraws x).strm = s.strm := rfl
@[simp] theorem setDraws_pkt (x : Nat) : (s.setDraws x).pkt = s.pkt := rfl
@[simp] theorem setDraws_fec (x : Nat) : (s.setDraws x).fec = s.fec := rfl
@[simp] theorem setDraws_phase (x : Nat) : (s.setDraws x).phase = s.phase := rfl
@[simp] theorem setDraws_value (x : Nat) : (s.setDraws x).value = s.value := rfl
@[simp] theorem setDraws_response (x : Nat) : (s.setDraws x).response = s.response := rfl
@[simp] theorem setDraws_pending (x : Nat) : (s.setDraws x).pending = s.pending := rfl
@[simp] theorem setDraws_draws (x : Nat) : (s.setDraws x).draws = x := rfl

end Sys2Proof.Machine.State
end

