-- ==== Sys2Proof/Laws/Ops.lean ====
section
/-! SUPPORT. What the shared operations of `Machine/Ops.lean` can do, said once: the end of a command, the loop of the
evictions, the insertion into a list. -/

namespace Sys2Proof.Machine

/-! ### The end of a command -/

section
variable (s : State)

@[simp] theorem discardTransients_params : (discardTransients s).params = s.params := rfl
@[simp] theorem discardTransients_data : (discardTransients s).data = s.data := rfl
@[simp] theorem discardTransients_fecl : (discardTransients s).fecl = s.fecl := rfl
@[simp] theorem discardTransients_dataCount : (discardTransients s).dataCount = s.dataCount := rfl
@[simp] theorem discardTransients_fecCount : (discardTransients s).fecCount = s.fecCount := rfl
@[simp] theorem discardTransients_cursor : (discardTransients s).cursor = s.cursor := rfl
@[simp] theorem discardTransients_response : (discardTransients s).response = s.response := rfl
@[simp] theorem discardTransients_pending : (discardTransients s).pending = s.pending := rfl
@[simp] theorem discardTransients_draws : (discardTransients s).draws = s.draws := rfl

theorem atBoundary_discardTransients : AtBoundary (discardTransients s) := ⟨rfl, rfl, rfl, rfl, rfl⟩

theorem atBoundary_driveStatus (w : Status) : AtBoundary (driveStatus w s) := atBoundary_discardTransients _

@[simp] theorem driveStatus_params (w : Status) : (driveStatus w s).params = s.params := by
  rw [driveStatus, discardTransients_params, State.setResponse_params]
@[simp] theorem driveStatus_data (w : Status) : (driveStatus w s).data = s.data := by
  rw [driveStatus, discardTransients_data, State.setResponse_data]
@[simp] theorem driveStatus_fecl (w : Status) : (driveStatus w s).fecl = s.fecl := by
  rw [driveStatus, discardTransients_fecl, State.setResponse_fecl]
@[simp] theorem driveStatus_dataCount (w : Status) : (driveStatus w s).dataCount = s.dataCount := by
  rw [driveStatus, discardTransients_dataCount, State.setResponse_dataCount]
@[simp] theorem driveStatus_fecCount (w : Status) : (driveStatus w s).fecCount = s.fecCount := by
  rw [driveStatus, discardTransients_fecCount, State.setResponse_fecCount]
@[simp] theorem driveStatus_cursor (w : Status) : (driveStatus w s).cursor = s.cursor := by
  rw [driveStatus, discardTransients_cursor, State.setResponse_cursor]
@[simp] theorem driveStatus_pending (w : Status) : (driveStatus w s).pending = s.pending := by
  rw [driveStatus, discardTransients_pending, State.setResponse_pending]
@[simp] theorem driveStatus_draws (w : Status) : (driveStatus w s).draws = s.draws := by
  rw [driveStatus, discardTransients_draws, State.setResponse_draws]
@[simp] theorem driveStatus_response (w : Status) :
    (driveStatus w s).response = some { status := w, value := valueBeside w s.value } := by
  rw [driveStatus, discardTransients_response, State.setResponse_response]

/-- R82's value column agrees with the value each outcome brings. -/
theorem valueBeside_outcome (o : CmdOutcome) : valueBeside o.status o.value = o.value := by
  cases o with
  | rejected r => cases r <;> rfl
  | _ => simp [valueBeside, CmdOutcome.status, CmdOutcome.value, BitVec.msb_eq_decide]

@[simp] theorem finish_response (o : CmdOutcome) :
    (finish o s).response = some { status := o.status, value := o.value } := by
  rw [finish, driveStatus_response, State.setValue_value, valueBeside_outcome]

@[simp] theorem finish_params (o : CmdOutcome) : (finish o s).params = s.params := by
  rw [finish, driveStatus_params, State.setValue_params]
@[simp] theorem finish_data (o : CmdOutcome) : (finish o s).data = s.data := by
  rw [finish, driveStatus_data, State.setValue_data]
@[simp] theorem finish_fecl (o : CmdOutcome) : (finish o s).fecl = s.fecl := by
  rw [finish, driveStatus_fecl, State.setValue_fecl]
@[simp] theorem finish_dataCount (o : CmdOutcome) : (finish o s).dataCount = s.dataCount := by
  rw [finish, driveStatus_dataCount, State.setValue_dataCount]
@[simp] theorem finish_fecCount (o : CmdOutcome) : (finish o s).fecCount = s.fecCount := by
  rw [finish, driveStatus_fecCount, State.setValue_fecCount]
@[simp] theorem finish_cursor (o : CmdOutcome) : (finish o s).cursor = s.cursor := by
  rw [finish, driveStatus_cursor, State.setValue_cursor]
@[simp] theorem finish_pending (o : CmdOutcome) : (finish o s).pending = s.pending := by
  rw [finish, driveStatus_pending, State.setValue_pending]
@[simp] theorem finish_draws (o : CmdOutcome) : (finish o s).draws = s.draws := by
  rw [finish, driveStatus_draws, State.setValue_draws]

theorem atBoundary_finish (o : CmdOutcome) : AtBoundary (finish o s) := atBoundary_driveStatus _ _

/-- The end of a command answers with its outcome and leaves the surroundings alone. -/
theorem finish_answered (o : CmdOutcome) : Answered o.status o.value s (finish o s) :=
  ⟨finish_response s o, (atBoundary_finish s o).1, finish_params s o, finish_pending s o⟩

/-- A command that only answers. -/
theorem finish_answeredOnly (o : CmdOutcome) : AnsweredOnly o.status o.value s (finish o s) :=
  ⟨finish_answered s o, finish_data s o, finish_dataCount s o, finish_fecl s o, finish_fecCount s o, finish_cursor s o⟩

/-- A rejection is the end of a command with the outcome `Rejected`. -/
theorem reject_eq_finish (r : Reason) : reject r s = finish (.rejected r) s := rfl

end

/-! ### The loop of the evictions (R192, R193) -/

/-- The loop removes the longest prefix that is to go, and lowers the count once for each entry. -/
theorem evictWhile_eq {α : Type} (goes : α → Bool) (l : List α) (n : Nat) :
    evictWhile goes l n = (l.dropWhile goes, n - (l.length - (l.dropWhile goes).length)) := by
  induction l generalizing n with
  | nil => simp [evictWhile]
  | cons e rest ih =>
    by_cases h : goes e
    · have hle : (rest.dropWhile goes).length ≤ rest.length := (List.dropWhile_sublist goes).length_le
      simp only [evictWhile, h, if_true, ih, List.dropWhile_cons_of_pos, List.length_cons, Prod.mk.injEq, true_and]
      omega
    · simp [evictWhile, h]

/-! ### Insertion into a list (R10) -/

theorem length_insertAt {α : Type} (l : List α) (i : Nat) (e : α) : (insertAt l i e).length = l.length + 1 := by
  simp only [insertAt, List.length_append, List.length_cons, List.length_take, List.length_drop]
  omega

theorem sublist_insertAt {α : Type} (l : List α) (i : Nat) (e : α) : l.Sublist (insertAt l i e) := by
  conv_lhs => rw [← List.take_append_drop i l]
  exact (List.Sublist.refl _).append (List.sublist_cons_self _ _)

theorem mem_insertAt {α : Type} {l : List α} {i : Nat} {e x : α} : x ∈ insertAt l i e ↔ x = e ∨ x ∈ l := by
  have h : x ∈ l ↔ x ∈ l.take i ∨ x ∈ l.drop i := by
    conv_lhs => rw [← List.take_append_drop i l]
    exact List.mem_append
  simp only [insertAt, List.mem_append, List.mem_cons, h]
  tauto

theorem map_insertAt {α β : Type} (f : α → β) (l : List α) (i : Nat) (e : α) :
    (insertAt l i e).map f = insertAt (l.map f) i (f e) := by
  simp [insertAt, List.map_take, List.map_drop]

end Sys2Proof.Machine
end

