-- ==== Sys2Proof/Laws/Drain.lean ====
section
/-! SUPPORT. What the parts of `READ` can do: the lookup of the cursor's entry, a delivery, a `NotReady`. -/

namespace Sys2Proof.Machine

/-! ### The lookup of the cursor's entry (R190) -/

/-- The positions found are those of the entries with the number, counted from `i`. -/
theorem mem_positionsFrom (c : SeqNum) (i : Nat) (l : List Packet) (j : Nat) :
    j ∈ positionsFrom c i l ↔ ∃ n, j = i + n ∧ (l.map (fun e => e.seq))[n]? = some c := by
  induction l generalizing i j with
  | nil => simp [positionsFrom]
  | cons e rest ih =>
    have tail : j ∈ positionsFrom c (i + 1) rest ↔
        ∃ n, j = i + (n + 1) ∧ ((e :: rest).map (fun x => x.seq))[n + 1]? = some c := by
      rw [ih]
      simp only [List.map_cons, List.getElem?_cons_succ]
      constructor <;> rintro ⟨n, hj, hn⟩ <;> exact ⟨n, by omega, hn⟩
    unfold positionsFrom
    split
    · rename_i hc
      rw [List.mem_cons, tail]
      constructor
      · rintro (hj | ⟨n, hj, hn⟩)
        · exact ⟨0, by omega, by simp [hc]⟩
        · exact ⟨n + 1, hj, hn⟩
      · rintro ⟨n, hj, hn⟩
        cases n with
        | zero => exact .inl (by omega)
        | succ n => exact .inr ⟨n, hj, hn⟩
    · rename_i hc
      rw [tail]
      constructor
      · rintro ⟨n, hj, hn⟩
        exact ⟨n + 1, hj, hn⟩
      · rintro ⟨n, hj, hn⟩
        cases n with
        | zero => exact absurd (by simpa using hn) hc
        | succ n => exact ⟨n, hj, hn⟩

/-- The lookup: with no such entry nothing, otherwise the index of one. -/
theorem cursorIndex_cases (c : SeqNum) (l : List Packet) :
    match cursorIndex c l with
    | none => ¬ ∃ e ∈ l, e.seq = c
    | some j => (l.map (fun e => e.seq))[j]? = some c := by
  have hm := mem_positionsFrom c 0 l
  unfold cursorIndex
  cases hp : positionsFrom c 0 l with
  | nil =>
    rintro ⟨e, he, hc⟩
    obtain ⟨n, hn, hne⟩ := List.mem_iff_getElem.1 he
    have hmem := (hm n).2 ⟨n, by omega, by simp [hn, hne, hc]⟩
    rw [hp] at hmem
    exact absurd hmem List.not_mem_nil
  | cons j more =>
    rw [hp] at hm
    have at_index : ∀ q, q ∈ j :: more → (l.map (fun e => e.seq))[q]? = some c := by
      intro q hq
      obtain ⟨n, hn, hc⟩ := (hm q).1 hq
      rw [Nat.zero_add] at hn
      exact hn ▸ hc
    cases more with
    | nil => exact at_index j List.mem_cons_self
    | cons k more =>
      have hlt : Config.pickEntry (l.map (fun e => e.seq)) c % (more.length + 2) < (j :: k :: more).length :=
        Nat.mod_lt _ (by omega)
      show (l.map (fun e => e.seq))[(j :: k :: more).getD _ j]? = some c
      rw [List.getD_eq_getElem _ _ hlt]
      exact at_index _ (List.getElem_mem hlt)

/-! ### The two ends of `READ` -/

theorem flush_data (c : SeqNum) (s : State) :
    (flush c s).data = s.data.dropWhile (fun e => decide (dist c e.seq > (s.params.historyWindow.val : Int))) := by
  simp only [flush, flushFec, flushData, State.setFecl_data, State.setData_data, evictWhile_eq]

theorem flush_dataCount (c : SeqNum) (s : State) :
    (flush c s).dataCount = s.dataCount - (s.data.length - (flush c s).data.length) := by
  rw [flush_data]
  simp only [flush, flushFec, flushData, State.setFecl_dataCount, State.setData_dataCount, evictWhile_eq]

theorem flush_fecl (c : SeqNum) (s : State) : (flush c s).fecl = s.fecl.dropWhile (fecEntryStale c) := by
  simp only [flush, flushFec, flushData, State.setFecl_fecl, State.setData_fecl, evictWhile_eq]

theorem flush_fecCount (c : SeqNum) (s : State) :
    (flush c s).fecCount = s.fecCount - (s.fecl.length - (flush c s).fecl.length) := by
  rw [flush_fecl]
  simp only [flush, flushFec, flushData, State.setFecl_fecCount, State.setData_fecl, State.setData_fecCount, evictWhile_eq]

/-- `FLUSH` writes the two stores and their counts only. -/
theorem flush_frame (c : SeqNum) (s : State) :
    flush c s = (s.setData (flush c s).data (flush c s).dataCount).setFecl (flush c s).fecl (flush c s).fecCount := rfl

/-- A delivery answers with the payload and writes the cursor, the stores and the counts. -/
theorem deliver_answered (e : Packet) (s : State) : Answered 0b0010 (.bytes e.payload) s (deliver e s) :=
  finish_answered (flush e.seq (s.setCursor (some e.seq))) (.delivered e.payload)

theorem deliver_cursor (e : Packet) (s : State) : (deliver e s).cursor = some e.seq := by
  rw [deliver, finish_cursor, flush_frame]
  rfl

theorem deliver_data (e : Packet) (s : State) : (deliver e s).data = (flush e.seq s).data := by
  rw [deliver, finish_data, flush_data, flush_data]
  rfl

theorem deliver_fecl (e : Packet) (s : State) : (deliver e s).fecl = (flush e.seq s).fecl := by
  rw [deliver, finish_fecl, flush_fecl, flush_fecl]
  rfl

end Sys2Proof.Machine
end

