-- ==== Sys2Proof/Laws/Reader.lean ====
section
/-! SUPPORT. What the stream reader and the two decoders can change: the reader registers, the registers they decode
into, and the count of draws. -/

namespace Sys2Proof.Machine

/-! ### Reads -/

/-- A read writes the reader registers and the count of draws only. -/
theorem rd16_frame (s : State) : (rd16 s).2 = (s.setStrm (rd16 s).2.strm).setDraws (rd16 s).2.draws := by
  unfold rd16; split <;> rfl

theorem rd32_frame (s : State) : (rd32 s).2 = (s.setStrm (rd32 s).2.strm).setDraws (rd32 s).2.draws := by
  unfold rd32; split <;> rfl

theorem rdbytes_frame (n : Nat) (s : State) :
    (rdbytes n s).2 = (s.setStrm (rdbytes n s).2.strm).setDraws (rdbytes n s).2.draws := by
  unfold rdbytes; split <;> rfl

theorem rdPair_frame (s : State) : (rdPair s).2 = (s.setStrm (rdPair s).2.strm).setDraws (rdPair s).2.draws := by
  have h : (rdPair s).2 = (rd16 (rd16 s).2).2 := rfl
  rw [h, rd16_frame (rd16 s).2, rd16_frame s]
  rfl

/-! ### Decodes -/

/-- What a decode may write: the transient registers and the count of draws. -/
def DecodeWrites (s t : State) : Prop :=
  t = (((s.setStrm t.strm).setPkt t.pkt).setFec t.fec).setDraws t.draws

theorem DecodeWrites.refl (s : State) : DecodeWrites s s := rfl

theorem DecodeWrites.trans {s t u : State} (h₁ : DecodeWrites s t) (h₂ : DecodeWrites t u) : DecodeWrites s u := by
  unfold DecodeWrites at *
  rw [h₂, h₁]
  rfl

theorem DecodeWrites.of_reader {s t : State} (h : t = (s.setStrm t.strm).setDraws t.draws) : DecodeWrites s t := by
  unfold DecodeWrites
  rw [h]
  rfl

theorem DecodeWrites.setPkt (s : State) (x : PktRegs) : DecodeWrites s (s.setPkt x) := rfl

theorem DecodeWrites.setFec (s : State) (x : FecHeader) : DecodeWrites s (s.setFec x) := rfl

theorem DecodeWrites.openStream (buf : List Byte) (s : State) : DecodeWrites s (openStream buf s) := rfl

/-- A decode writes nothing outside the decode, and not the phase or the value. -/
theorem DecodeWrites.sameOutsideDecode {s t : State} (h : DecodeWrites s t) :
    SameOutsideDecode s t ∧ t.phase = s.phase ∧ t.value = s.value := by
  unfold DecodeWrites at h
  rw [h]
  exact ⟨⟨⟨rfl, rfl, rfl, rfl, rfl⟩, ⟨rfl, rfl⟩, rfl⟩, rfl, rfl⟩

/-- The state a decode ends in. -/
def Decoded.state : Decoded → State
  | .done s => s
  | .raised _ s => s

theorem rtpFixedHeader_writes (s : State) : DecodeWrites s (rtpFixedHeader s) := by
  unfold rtpFixedHeader latchRtpW0Seq latchRtpTs latchRtpSsrc
  exact ((((((DecodeWrites.of_reader (rdPair_frame s)).trans (.setPkt _ _)).trans
    (.of_reader (rd32_frame _))).trans (.setPkt _ _)).trans (.of_reader (rd32_frame _))).trans (.setPkt _ _))

theorem rtpCsrcList_writes (n i : Nat) (s : State) : DecodeWrites s (rtpCsrcList n i s) := by
  induction n generalizing i s with
  | zero => exact .refl s
  | succ n ih => exact ((DecodeWrites.of_reader (rd32_frame s)).trans (.setPkt _ _)).trans (ih _ _)

theorem latchRtpExt_writes (f : RtpExt) (s : State) : DecodeWrites s (latchRtpExt f s).state := by
  unfold latchRtpExt
  split
  · exact .refl s
  · exact (DecodeWrites.of_reader (rdbytes_frame _ s)).trans (.setPkt _ _)

theorem rtpExtension_writes (s : State) : DecodeWrites s (rtpExtension s).state := by
  unfold rtpExtension
  split
  · exact (DecodeWrites.of_reader (rdPair_frame s)).trans (latchRtpExt_writes _ _)
  · exact .setPkt _ _

theorem rtpPayload_writes (s : State) : DecodeWrites s (rtpPayload s).state := by
  have h := DecodeWrites.of_reader (rdbytes_frame (remaining s) s)
  unfold rtpPayload
  dsimp only
  split
  · split
    · exact h
    · exact h.trans (.setPkt _ _)
  · exact h

/-- The whole RTP decode writes the transient registers and the count of draws only. -/
theorem rtpDecode_writes (s : State) : DecodeWrites s (rtpDecode s).state := by
  have h := (rtpFixedHeader_writes s).trans (rtpCsrcList_writes (rtpFixedHeader s).pkt.cc.toNat 0 _)
  have he := rtpExtension_writes (rtpCsrcList (rtpFixedHeader s).pkt.cc.toNat 0 (rtpFixedHeader s))
  unfold rtpDecode
  dsimp only
  split
  · rename_i heq
    rw [heq] at he
    exact h.trans he
  · rename_i heq
    rw [heq] at he
    exact (h.trans he).trans (rtpPayload_writes _)

theorem fecWords_writes (s : State) : DecodeWrites s (fecWords s) := by
  unfold fecWords latchFecBaseLen latchFecW1 latchFecTsrec latchFecW2
  exact ((((((((DecodeWrites.of_reader (rdPair_frame s)).trans (.setFec _ _)).trans (.of_reader (rd32_frame _))).trans
    (.setFec _ _)).trans (.of_reader (rd32_frame _))).trans (.setFec _ _)).trans (.of_reader (rd32_frame _))).trans
    (.setFec _ _))

/-- The whole FEC decode writes the transient registers and the count of draws only. -/
theorem fecDecode_writes (payload : List Byte) (s : State) : DecodeWrites s (fecDecode payload s).state := by
  unfold fecDecode
  split
  · exact .refl s
  · exact (DecodeWrites.openStream payload s).trans (fecWords_writes _)

end Sys2Proof.Machine
end

