-- ==== Sys2Proof/Laws/Frames.lean ====
section
/-! SUPPORT. What a word of the stream can do, said once: it leaves everything outside the decode alone. -/

namespace Sys2Proof.Machine

theorem SameOutsideDecode.refl (s : State) : SameOutsideDecode s s := ⟨⟨rfl, rfl, rfl, rfl, rfl⟩, ⟨rfl, rfl⟩, rfl⟩

theorem SameOutsideDecode.trans {s t u : State} (h₁ : SameOutsideDecode s t) (h₂ : SameOutsideDecode t u) :
    SameOutsideDecode s u := by
  obtain ⟨⟨a₁, a₂, a₃, a₄, a₅⟩, ⟨b₁, b₂⟩, c⟩ := h₁
  obtain ⟨⟨a₁', a₂', a₃', a₄', a₅'⟩, ⟨b₁', b₂'⟩, c'⟩ := h₂
  exact ⟨⟨a₁'.trans a₁, a₂'.trans a₂, a₃'.trans a₃, a₄'.trans a₄, a₅'.trans a₅⟩, ⟨b₁'.trans b₁, b₂'.trans b₂⟩, c'.trans c⟩

theorem setPhase_same (s : State) (x : Phase) : SameOutsideDecode s (s.setPhase x) := .refl s
theorem setPkt_same (s : State) (x : PktRegs) : SameOutsideDecode s (s.setPkt x) := .refl s
theorem setFec_same (s : State) (x : FecHeader) : SameOutsideDecode s (s.setFec x) := .refl s
theorem raiseAt_same (r : Reason) (s : State) : SameOutsideDecode s (raiseAt r s) := .refl s
theorem returnAt_same (v : Value) (s : State) : SameOutsideDecode s (returnAt v s) := .refl s

theorem afterCsrcs_same (k : Nat) (s : State) : SameOutsideDecode s (afterCsrcs k s) := by
  unfold afterCsrcs
  split
  · exact setPhase_same _ _
  · split
    · exact setPhase_same _ _
    · exact (setPkt_same s { s.pkt with ext := none }).trans (setPhase_same _ _)

theorem afterFecHeader_same (s : State) : SameOutsideDecode s (afterFecHeader s) := by
  unfold afterFecHeader
  split
  · exact returnAt_same _ _
  · exact raiseAt_same _ _

theorem rtpExtStep_same (f : RtpExt) (s : State) : SameOutsideDecode s (rtpExtStep f s) := by
  have h := (latchRtpExt_writes f s).sameOutsideDecode.1
  unfold rtpExtStep
  split
  · rename_i hd
    rw [hd] at h
    exact h.trans (raiseAt_same _ _)
  · rename_i hd
    rw [hd] at h
    exact h.trans (setPhase_same _ _)

theorem payloadStep_same (s : State) : SameOutsideDecode s (payloadStep s) := by
  have h := (rtpPayload_writes s).sameOutsideDecode.1
  unfold payloadStep
  split
  · rename_i hd
    rw [hd] at h
    exact h.trans (raiseAt_same _ _)
  · rename_i hd
    rw [hd] at h
    exact h.trans (returnAt_same _ _)

/-- Taking the bytes of a row writes the reader and the count of draws only. -/
theorem fetchRow_writes (row : WireRow) (s : State) : DecodeWrites s (fetchRow row s).2 := by
  have two := DecodeWrites.of_reader (rdPair_frame s)
  have one := DecodeWrites.of_reader (rd32_frame s)
  unfold fetchRow
  cases row
  case fecAccepted =>
    dsimp only
    exact ((two.trans (.of_reader (rd32_frame _))).trans (.of_reader (rd32_frame _))).trans (.of_reader (rd32_frame _))
  all_goals (dsimp only; assumption)

/-! ### Decoding at a slot gives an instruction of that slot -/

theorem decodeBuf_slot {mk : List Byte → Instr} (hmk : ∀ buf, (mk buf).slot = .port) {bytes : List Byte} {i : Instr}
    {rest : List Byte} (h : decodeBuf mk bytes = .ok (i, rest)) : i.slot = .port := by
  unfold decodeBuf at h
  split at h
  · split at h
    · simp only [Except.ok.injEq, Prod.mk.injEq] at h
      exact h.1 ▸ hmk _
    · simp at h
  · simp at h

theorem decodePort_slot {bytes : List Byte} {i : Instr} {rest : List Byte} (h : decode .port bytes = .ok (i, rest)) :
    i.slot = .port := by
  simp only [decode] at h
  unfold decodePort at h
  split at h
  · simp at h
  · split at h
    · simp only [Except.ok.injEq, Prod.mk.injEq] at h
      exact h.1 ▸ rfl
    · exact decodeBuf_slot (fun _ => rfl) h
    · exact decodeBuf_slot (fun _ => rfl) h
    · simp only [Except.ok.injEq, Prod.mk.injEq] at h
      exact h.1 ▸ rfl
    · exact decodeBuf_slot (fun _ => rfl) h
    · exact decodeBuf_slot (fun _ => rfl) h
    · unfold decodeSeqdist at h
      split at h
      · simp only [Except.ok.injEq, Prod.mk.injEq] at h
        exact h.1 ▸ rfl
      · simp at h
    · simp only [Except.ok.injEq, Prod.mk.injEq] at h
      exact h.1 ▸ rfl

end Sys2Proof.Machine
end

