-- ==== Sys2Proof/Laws/PerInstr.lean ====
section
/-! SUPPORT. Per instruction: how many bytes its encoding has, which is what the spec's tables say of its row. -/

namespace Sys2Proof.Laws

/-- The bytes of an instruction: `op` in one (R81), `len` in one for each seven bits and then `len` bytes, `a` and `b` in
two each (R80, log 3); four for a 32-bit wire word (R83 to R87), sixteen for FEC.ACCEPTED, one for a status (R82). -/
def byteCount : Instr → Nat
  | .read => 1
  | .enqData buf => 2 + Nat.log 128 buf.length + buf.length
  | .enqFec buf => 2 + Nat.log 128 buf.length + buf.length
  | .reserved3 => 1
  | .decRtp buf => 2 + Nat.log 128 buf.length + buf.length
  | .decFec buf => 2 + Nat.log 128 buf.length + buf.length
  | .seqdist _ _ => 5
  | .reserved7 => 1
  | .rtpW0Seq _ => 4
  | .rtpTs _ => 4
  | .rtpSsrc _ => 4
  | .rtpCsrc _ _ => 4
  | .rtpExt _ => 4
  | .fecBaseLen _ => 4
  | .fecW1 _ => 4
  | .fecTsrec _ => 4
  | .fecW2 _ => 4
  | .fecAccepted _ => 16
  | .responseStatus _ _ => 1

theorem length_encodeBuf (op : Byte) (buf : List Byte) :
    (encodeBuf op buf).length = 2 + Nat.log 128 buf.length + buf.length := by
  simp only [encodeBuf, List.length_cons, List.length_append, length_encodeLen]
  omega

namespace EncodedLength

/-- The encoding has the bytes of its row. -/
def Statement (i : Instr) : Prop := (encode i).length = byteCount i

theorem read : Statement .read := rfl
theorem enqData (buf : List Byte) : Statement (.enqData buf) := length_encodeBuf _ buf
theorem enqFec (buf : List Byte) : Statement (.enqFec buf) := length_encodeBuf _ buf
theorem reserved3 : Statement .reserved3 := rfl
theorem decRtp (buf : List Byte) : Statement (.decRtp buf) := length_encodeBuf _ buf
theorem decFec (buf : List Byte) : Statement (.decFec buf) := length_encodeBuf _ buf
theorem seqdist (a b : SeqNum) : Statement (.seqdist a b) := rfl
theorem reserved7 : Statement .reserved7 := rfl
theorem rtpW0Seq (f : RtpW0Seq) : Statement (.rtpW0Seq f) := rfl
theorem rtpTs (ts : U32) : Statement (.rtpTs ts) := rfl
theorem rtpSsrc (ssrc : U32) : Statement (.rtpSsrc ssrc) := rfl
theorem rtpCsrc (i : Fin 15) (csrc : U32) : Statement (.rtpCsrc i csrc) := rfl
theorem rtpExt (f : RtpExt) : Statement (.rtpExt f) := rfl
theorem fecBaseLen (f : FecBaseLen) : Statement (.fecBaseLen f) := rfl
theorem fecW1 (f : FecW1) : Statement (.fecW1 f) := rfl
theorem fecTsrec (ts : U32) : Statement (.fecTsrec ts) := rfl
theorem fecW2 (f : FecW2) : Statement (.fecW2 f) := rfl
theorem fecAccepted (f : FecAccepted) : Statement (.fecAccepted f) := rfl
theorem responseStatus (r : Bool) (code : BitVec 3) : Statement (.responseStatus r code) := rfl

end EncodedLength

end Sys2Proof.Laws
end

