-- ==== Sys2Proof/Laws/Run.lean ====
section
/-! SUPPORT. Runs: one step and then the rest, and that `runSteps` is the host's own run of the core. -/

namespace Sys2Proof.Machine

@[simp] theorem runSteps_zero (s : State) : runSteps 0 s = .next s := rfl

theorem runSteps_succ_of_next {k : Nat} {s t : State} (h : step s = .next t) : runSteps (k + 1) s = runSteps k t := by
  rw [runSteps, h]

/-- A run that ends in a next state took a first step. -/
theorem runSteps_succ_next {k : Nat} {s u : State} (h : runSteps (k + 1) s = .next u) :
    ∃ t, step s = .next t ∧ runSteps k t = .next u := by
  rw [runSteps] at h
  split at h
  · rename_i t ht
    exact ⟨t, ht, h⟩
  · simp at h
  · simp at h

/-- What one step keeps, a run keeps. -/
theorem runSteps_keeps {P : State → Prop} (hstep : ∀ s t, P s → step s = .next t → P t) :
    ∀ (k : Nat) (s t : State), P s → runSteps k s = .next t → P t
  | 0, s, t, hs, h => by
    rw [runSteps_zero, Host.Outcome.next.injEq] at h
    exact h ▸ hs
  | k + 1, s, t, hs, h => by
    obtain ⟨u, hu, hk⟩ := runSteps_succ_next h
    exact runSteps_keeps hstep k u t (hstep s u hs hu) hk

theorem runSteps_eq_coreRun (k : Nat) (s : State) : runSteps k s = Host.Core.run Sys2Proof.core k s := by
  induction k generalizing s with
  | zero => rfl
  | succ k ih =>
    have hrun := Host.Core.run.eq_2 Sys2Proof.core s k
    cases hs : step s with
    | next t =>
      rw [show Sys2Proof.core.step s = .next t from hs] at hrun
      rw [runSteps_succ_of_next hs, ih t]
      exact hrun.symm
    | fault r =>
      rw [show Sys2Proof.core.step s = .fault r from hs] at hrun
      rw [runSteps, hs]
      exact hrun.symm
    | refused r =>
      rw [show Sys2Proof.core.step s = .refused r from hs] at hrun
      rw [runSteps, hs]
      exact hrun.symm

end Sys2Proof.Machine
end

