-- ==== Sys2Proof/Tests/Slice0.lean ====
section
/-! SUPPORT. Tests, each of one step, their expected results from the tables and vectors of the spec (named V, FH, QD, QF,
RF, P as in 95_test_vectors.md); and a witness for the hypotheses of each statement, at boundary values. -/

namespace Sys2Proof.Tests

open Sys2Proof Sys2Proof.Machine

/-! ### Small states (configuration T1 of 95_test_vectors.md, PKT_MAX 64) -/

def t1 : Params := { dataMax := 8, fecMax := 4, maxDistance := 100, historyWindow := 2, pktMax := 64 }

/-- A block of configuration T1 right after reset. -/
def box : State := startState t1 []

/-- The buffer DATA(s, p). -/
def dataBuf (s : SeqNum) (p : Byte) : List Byte := 0x80 :: 0x00 :: (bytes16 s ++ [0, 0, 0, 0, 0, 0, 0, 1, p])

/-- What DATA(s, p) is once stored. -/
def entry (s : SeqNum) (p : Byte) : Packet :=
  { version := 2, padding := false, extension := false, cc := 0, marker := false, pt := 0, seq := s, ts := 0, ssrc := 1,
    csrc := [], ext := none, payload := [p], fec := none }

/-- The FEC header of FECPKT(_, base, offset, na). -/
def header (base : U16) (offset na : Byte) : FecHeader :=
  { snBaseLow := base, lengthRecovery := 1, e := true, ptRecovery := 0, mask := 0, tsRecovery := 0, x := false,
    d := false, type := 0, index := 0, offset := offset, na := na, snBaseExt := 0 }

/-- The buffer FECPKT(s, 100, 2, 4) of P3 step 6, and FECPKT(s, 96, 1, 4) of step 7 with the other header bytes. -/
def fecBuf (s base offset na : Byte) : List Byte :=
  [0x80, 0x60, 0, s, 0, 0, 0, 0, 0, 0, 0, 1, 0, base, 0, 1, 0x80, 0, 0, 0, 0, 0, 0, 0, 0, offset, na, 0, 0xEE]

/-- What FECPKT(s, base, offset, na) is once stored. -/
def fecEntry (s base offset na : Byte) : Packet :=
  { version := 2, padding := false, extension := false, cc := 0, marker := false, pt := 96, seq := s.setWidth 16, ts := 0,
    ssrc := 1, csrc := [], ext := none,
    payload := [0, base, 0, 1, 0x80, 0, 0, 0, 0, 0, 0, 0, 0, offset, na, 0, 0xEE],
    fec := some (header (base.setWidth 16) offset na) }

/-- A block of configuration T1 with this DATA list and cursor. -/
def holding (l : List Packet) (c : Option SeqNum) : State := (box.setData l l.length).setCursor c

/-- The response of a command that completed. -/
def answer : Host.Outcome State Fault Refusal → Option Response
  | .next t => t.response
  | .fault _ => none
  | .refused _ => none

/-- A field of the next state. -/
def field {α : Type} (f : State → α) : Host.Outcome State Fault Refusal → Option α
  | .next t => some (f t)
  | .fault _ => none
  | .refused _ => none

def dataKeys (s : State) : List SeqNum := s.data.map (fun e => e.seq)

def refusal : Host.Outcome State Fault Refusal → Option Refusal
  | .next _ => none
  | .fault _ => none
  | .refused r => some r

def decoded (slot : Slot) (bytes : List Byte) : Option (Instr × List Byte) := (decode slot bytes).toOption

/-! ### WellFormed refuses each kind of ill-formed term -/

theorem test_wf_status : (Instr.responseStatus true 5).wellFormed = false := by decide
theorem test_wf_status_low : (Instr.responseStatus false 4).wellFormed = false := by decide

/-! ### Decoding, each word written out from the encodings of 30_encoding.md -/

/-- R81: op 000. -/
theorem test_decode_read : decoded .port [0b00000000] = some (.read, []) := by decide
/-- R81: op 001, `len` = 2. -/
theorem test_decode_enqData : decoded .port [0b00000001, 2, 0xAA, 0xBB] = some (.enqData [0xAA, 0xBB], []) := by
  decide
/-- R81: op 010, `len` = 1; the byte after the buffer is left over. -/
theorem test_decode_enqFec : decoded .port [0b00000010, 1, 0xCC, 0x77] = some (.enqFec [0xCC], [0x77]) := by decide
/-- R89: op 011. -/
theorem test_decode_reserved3 : decoded .port [0b00000011] = some (.reserved3, []) := by decide
/-- R81: op 100. -/
theorem test_decode_decRtp : decoded .port [0b00000100, 1, 0x80] = some (.decRtp [0x80], []) := by decide
/-- R81: op 101, empty payload (FH3). -/
theorem test_decode_decFec : decoded .port [0b00000101, 0] = some (.decFec [], []) := by decide
/-- R81: op 110, `a` = 0, `b` = 65535. -/
theorem test_decode_seqdist : decoded .port [0b00000110, 0x00, 0x00, 0xFF, 0xFF] = some (.seqdist 0 65535, []) := by decide
/-- Log 3: `len` = 130 is 2 + 128 * 1, in two bytes. -/
theorem test_decode_len_wide : decodeLen [0b10000010, 0b00000001, 0x55] = some (130, [0x55]) := by decide
/-- Log 3: a `len` that ends inside. -/
theorem test_decode_len_short : decoded .port [0b00000001, 0b10000010] = none := by decide
/-- R89: op 111. -/
theorem test_decode_reserved7 : decoded .port [0b00000111] = some (.reserved7, []) := by decide
/-- R83, the first word of V2: `10 0 0 0010 1 1100000`, then `seq` = FFFF. -/
theorem test_decode_rtpW0Seq : decoded (.wire .rtpW0Seq) [0b10000010, 0b11100000, 0xFF, 0xFF] =
    some (.rtpW0Seq ⟨2, false, false, 2, true, 96, 65535⟩, []) := by decide
/-- R83, the first word of V21: `10 1 1 0001 0 0000000`, `seq` = 1. -/
theorem test_decode_rtpW0Seq_flags : decoded (.wire .rtpW0Seq) [0b10110001, 0b00000000, 0x00, 0x01] =
    some (.rtpW0Seq ⟨2, true, true, 1, false, 0, 1⟩, []) := by decide
/-- R83, `ts` = 1000 (V1). -/
theorem test_decode_rtpTs : decoded (.wire .rtpTs) [0x00, 0x00, 0x03, 0xE8] = some (.rtpTs 1000, []) := by decide
/-- R83, `ssrc` (V1). -/
theorem test_decode_rtpSsrc : decoded (.wire .rtpSsrc) [0x12, 0x34, 0x56, 0x78] = some (.rtpSsrc 0x12345678, []) := by decide
/-- R84, second CSRC of V2. -/
theorem test_decode_rtpCsrc : decoded (.wire (.rtpCsrc 1)) [0, 0, 0, 0x0B] = some (.rtpCsrc 1 0x0B, []) := by decide
/-- R85, the extension words of V3. -/
theorem test_decode_rtpExt : decoded (.wire .rtpExt) [0xBE, 0xDE, 0x00, 0x03] = some (.rtpExt ⟨0xBEDE, 3⟩, []) := by decide
/-- R87, payload offset 0 of FH4. -/
theorem test_decode_fecBaseLen : decoded (.wire .fecBaseLen) [0xFF, 0xFE, 0x05, 0x00] =
    some (.fecBaseLen ⟨65534, 1280⟩, []) := by decide
/-- R87, `w1` of FH4: `1 0100001`, mask 000001. -/
theorem test_decode_fecW1 : decoded (.wire .fecW1) [0b10100001, 0x00, 0x00, 0x01] = some (.fecW1 ⟨true, 33, 1⟩, []) := by
  decide
/-- R87, `ts_recovery` of FH1. -/
theorem test_decode_fecTsrec : decoded (.wire .fecTsrec) [0x00, 0x00, 0x27, 0x10] = some (.fecTsrec 10000, []) := by decide
/-- R87, `w2`: `0 1 000 000`, offset 1, na 5, ext 0 (FH4). -/
theorem test_decode_fecW2 : decoded (.wire .fecW2) [0b01000000, 0x01, 0x05, 0x00] =
    some (.fecW2 ⟨false, true, 0, 0, 1, 5, 0⟩, []) := by decide
/-- R87, `w2` with `type` = 1 (FH9) and `index` = 1 (FH10) at once: `0 0 001 001`. -/
theorem test_decode_fecW2_fields : decoded (.wire .fecW2) [0b00001001, 0x02, 0x04, 0xFF] =
    some (.fecW2 ⟨false, false, 1, 1, 2, 4, 255⟩, []) := by decide
/-- R131, FH7: `d` = 1 is in profile. -/
theorem test_decode_fecAccepted : decoded (.wire .fecAccepted)
    [0x00, 0x64, 0x00, 0x01, 0x80, 0, 0, 0, 0, 0, 0, 0, 0x40, 0x02, 0x04, 0x00] =
    some (.fecAccepted ⟨100, 1, 0, 0, true, 2, 4⟩, []) := by decide
/-- R131, FH6: `e` = 0 is not. -/
theorem test_decode_fecAccepted_not : decoded (.wire .fecAccepted)
    [0x00, 0x64, 0x00, 0x01, 0x00, 0, 0, 0, 0, 0, 0, 0, 0x00, 0x02, 0x04, 0x00] = none := by decide
/-- R82: `1100`, Rejected(OutOfWindow). -/
theorem test_decode_status : decoded .status [0b00001100] = some (.responseStatus true 4, []) := by decide
/-- R82: `1111` is never produced. -/
theorem test_decode_status_not : decoded .status [0b00001111] = none := by decide

/-- A step of the reset machine runs the word that `withFetchWord` places: op 110 with zero operands. -/
theorem test_fetch_command : field (fun t => t.response) (step (State.reset.withFetchWord 8 6)) =
    some (some { status := 0b0000, value := .distance 0 }) := by decide
/-- The word 82E0FFFF of V2. -/
theorem test_fetch_word : field (fun t => t.pkt.seq) (step (State.reset.withFetchWord 32 0x82E0FFFF)) = some 65535 := by
  decide

/-! ### One step of each instruction -/

/-- RF6: 65535, 0, 1 follow one another; 65534 falls out of the history window. -/
theorem test_read_wrap :
    let o := exec .read (holding [entry 65534 0xFE, entry 65535 0xFF, entry 0 0x00, entry 1 0x01] (some 0))
    answer o = some { status := 0b0010, value := .bytes [0x01] } ∧ field dataKeys o = some [65535, 0, 1] ∧
      field (fun t => (t.dataCount, t.cursor)) o = some (3, some 1) := by decide

/-- RF10: the FEC entry with last number 106 goes when 106 is delivered. -/
theorem test_read_fec :
    let o := exec .read ((holding [entry 103 0x67, entry 104 0x68, entry 105 0x69, entry 106 0x6A] (some 105)).setFecl
      [fecEntry 1 100 2 4] 1)
    field (fun t => (t.fecl, t.fecCount)) o = some ([], 0) ∧ field dataKeys o = some [104, 105, 106] := by decide

/-- QD3: 4 goes between 3 and 5. -/
theorem test_enqData_between :
    let o := exec (.enqData (dataBuf 4 0x04)) (holding [entry 3 0x03, entry 5 0x05] none)
    answer o = some { status := 0b0000, value := .count 13 } ∧
      field (fun t => (t.data, t.dataCount)) o = some ([entry 3 0x03, entry 4 0x04, entry 5 0x05], 3) := by decide

/-- QD8: a distance of 101 is outside the window of 100. -/
theorem test_enqData_window :
    let o := exec (.enqData (dataBuf 203 0xCB)) (holding [entry 100 0x64, entry 102 0x66] none)
    answer o = some { status := 0b1100, value := .count 0 } ∧ field dataKeys o = some [100, 102] := by decide

/-- P3 step 6. -/
theorem test_enqFec_accepted :
    let o := exec (.enqFec (fecBuf 1 100 2 4)) (holding [entry 100 0x64, entry 102 0x66] (some 100))
    answer o = some { status := 0b0000, value := .count 29 } ∧
      field (fun t => (t.fecl, t.fecCount)) o = some ([fecEntry 1 100 2 4], 1) := by decide

/-- P3 step 7: the range ends at 99, before the cursor. -/
theorem test_enqFec_stale :
    let o := exec (.enqFec (fecBuf 2 96 1 4)) (holding [entry 100 0x64, entry 102 0x66] (some 100))
    answer o = some { status := 0b0001, value := .count 29 } ∧ field (fun t => t.fecCount) o = some 0 := by decide

/-- R89. -/
theorem test_reserved3 : refusal (exec .reserved3 box) = some (.reservedOperation 3) := by decide
/-- R89. -/
theorem test_reserved7 : refusal (exec .reserved7 box) = some (.reservedOperation 7) := by decide

/-- The packet of V21. -/
def packetV21 : Packet :=
  { version := 2, padding := true, extension := true, cc := 1, marker := false, pt := 0, seq := 1, ts := 0, ssrc := 1,
    csrc := [7], ext := some { id := 0xABCD, length := 2, data := [1, 2] }, payload := [0x0A, 0x0B], fec := none }

/-- V21: CSRC, extension and padding at once. -/
theorem test_decRtp_all :
    answer (exec (.decRtp [0xB1, 0, 0, 1, 0, 0, 0, 0, 0, 0, 0, 1, 0, 0, 0, 7, 0xAB, 0xCD, 0, 2, 1, 2, 0x0A, 0x0B, 0x0C, 2])
      box) = some { status := 0b0000, value := .packet packetV21 } := by decide

/-- V5: the extension's length exceeds what remains. -/
theorem test_decRtp_truncated :
    answer (exec (.decRtp [0x90, 8, 0, 1, 0, 0, 0, 0, 0, 0, 0, 1, 0xBE, 0xDE, 0, 5, 1, 2, 3, 0x99]) box) =
    some { status := 0b1000, value := .count 0 } := by decide

/-- The header of FH5. -/
def headerFH5 : FecHeader :=
  { snBaseLow := 100, lengthRecovery := 1280, e := true, ptRecovery := 0, mask := 0, tsRecovery := 10000, x := true,
    d := true, type := 7, index := 7, offset := 255, na := 255, snBaseExt := 255 }

/-- FH5: every bit of `w2` set; bytes from 16 on are not read. -/
theorem test_decFec_fields :
    answer (exec (.decFec [0, 0x64, 5, 0, 0x80, 0, 0, 0, 0, 0, 0x27, 0x10, 0xFF, 0xFF, 0xFF, 0xFF, 0xAA, 0xBB]) box) =
      some { status := 0b0000, value := .fecHeader headerFH5 } := by decide

/-- FH2: fifteen bytes. -/
theorem test_decFec_short :
    answer (exec (.decFec [0, 0x64, 5, 0, 0x80, 0, 0, 0, 0, 0, 0x27, 0x10, 0, 2, 4]) box) =
    some { status := 0b1000, value := .count 0 } := by decide

/-- Part 4: 3 is two before 5. -/
theorem test_seqdist_before : answer (exec (.seqdist 3 5) box) = some { status := 0, value := .distance (-2) } := by decide
/-- Part 4: the antipode is negative. -/
theorem test_seqdist_antipode :
    answer (exec (.seqdist 32768 0) box) = some { status := 0, value := .distance (-32768) } := by decide

/-- R111's example, in `pkt`; the timestamp comes next. -/
theorem test_rtpW0Seq :
    field (fun t => (t.pkt.version, t.pkt.cc, t.pkt.marker, t.pkt.pt, t.phase))
      (exec (.rtpW0Seq ⟨2, false, false, 2, true, 96, 65535⟩) box) = some (2, 2, true, 96, .wire .rtpTs) := by decide
theorem test_rtpTs : field (fun t => (t.pkt.ts, t.phase)) (exec (.rtpTs 1000) box) = some (1000, .wire .rtpSsrc) := by decide
/-- With `cc` = 0 and no extension the payload comes next. -/
theorem test_rtpSsrc : field (fun t => (t.pkt.ssrc, t.phase)) (exec (.rtpSsrc 7) box) = some (7, .payload) := by decide
/-- The second of two CSRC words: register 1 and no other, then the payload. -/
theorem test_rtpCsrc :
    field (fun t => (t.pkt.csrc[0], t.pkt.csrc[1], t.phase)) (exec (.rtpCsrc 1 11) (box.setPkt { PktRegs.idle with cc := 2 })) =
      some (0, 11, .payload) := by decide
/-- V4: a length equal to the bytes that remain is accepted. -/
theorem test_rtpExt_all :
    field (fun t => (t.pkt.ext, t.phase)) (exec (.rtpExt ⟨0xBEDE, 4⟩) (openStream [1, 2, 3, 0x99] box)) =
      some (some { id := 0xBEDE, length := 4, data := [1, 2, 3, 0x99] }, .payload) := by decide
/-- V5: one more is `Truncated`. -/
theorem test_rtpExt_over :
    field (fun t => t.phase) (exec (.rtpExt ⟨0xBEDE, 5⟩) (openStream [1, 2, 3, 0x99] box)) = some (.respond 0b1000) := by decide
theorem test_fecBaseLen :
    field (fun t => (t.fec.snBaseLow, t.fec.lengthRecovery, t.phase)) (exec (.fecBaseLen ⟨65534, 1280⟩) box) =
      some (65534, 1280, .wire .fecW1) := by decide
theorem test_fecW1 :
    field (fun t => (t.fec.e, t.fec.ptRecovery, t.fec.mask, t.phase)) (exec (.fecW1 ⟨true, 33, 1⟩) box) =
      some (true, 33, 1, .wire .fecTsrec) := by decide
theorem test_fecTsrec :
    field (fun t => (t.fec.tsRecovery, t.phase)) (exec (.fecTsrec 10000) box) = some (10000, .wire .fecW2) := by decide
theorem test_fecW2 :
    field (fun t => (t.fec.d, t.fec.offset, t.fec.na, t.phase)) (exec (.fecW2 ⟨false, true, 0, 0, 1, 5, 0⟩) box) =
      some (true, 1, 5, .respond 0b0000) := by decide
/-- FH7. -/
theorem test_fecAccepted :
    field (fun t => (t.fec, t.phase)) (exec (.fecAccepted ⟨100, 1, 0, 0, true, 2, 4⟩) box) =
      some ({ header 100 2 4 with d := true }, .respond 0b0000) := by decide
/-- R82: bit 3 set, so the value is 0. -/
theorem test_responseStatus_rejected :
    answer (exec (.responseStatus true 4) (box.setValue (.count 13))) = some { status := 0b1100, value := .count 0 } := by decide
/-- R82: DuplicateIgnored goes with the bytes consumed. -/
theorem test_responseStatus_count :
    answer (exec (.responseStatus false 1) (box.setValue (.count 29))) = some { status := 0b0001, value := .count 29 } := by
  decide

/-- R240: reset between commands. -/
theorem test_reset_event :
    field (fun t => (t.data, t.dataCount, t.cursor, t.pending)) (step ((holding [entry 9 9] (some 9)).setPending [.reset])) =
      some ([], 0, none, []) := by decide

/-- The table of Part 3: FEC.LAST for six headers. -/
theorem test_fecLast :
    [fecLast (header 100 2 4), fecLast (header 96 1 4), fecLast (header 65534 1 4), fecLast (header 100 0 7),
     fecLast (header 100 2 0), fecLast (header 0 255 255)] = [106, 99, 1, 100, 98, 64770] := by decide

/-- R133: at 105 the header of the source's example is not stale, at 106 it is; the wrapped one is not at 65535. -/
theorem test_fecStale :
    [fecStale (header 100 2 4) 105, fecStale (header 100 2 4) 106, fecStale (header 65534 1 4) 65535,
     fecStale (header 0 255 255) 0] = [false, true, false, true] := by decide

/-! ### Witnesses: for each statement with hypotheses, a state and operands that meet them all -/

/-- The state of P3 before step 8, gap at 101. -/
def gapState : State := (holding [entry 100 0x64, entry 102 0x66] (some 100)).setFecl [fecEntry 1 100 2 4] 1

/-- The state of P6 from step 9 on: full, with a gap after the cursor. -/
def fullState : State :=
  holding [entry 10 10, entry 12 12, entry 13 13, entry 14 14, entry 15 15, entry 16 16, entry 17 17, entry 18 18]
    (some 10)

/-- The state of RF5. -/
def wrapState : State := holding [entry 65534 0xFE, entry 65535 0xFF, entry 0 0, entry 1 1] (some 65535)

def nextOf : Host.Outcome State Fault Refusal → Option State
  | .next t => some t
  | .fault _ => none
  | .refused _ => none

theorem next_of_isSome {o : Host.Outcome State Fault Refusal} (h : (nextOf o).isSome = true) : ∃ t, o = .next t := by
  cases o with
  | next t => exact ⟨t, rfl⟩
  | fault f => exact absurd h (by simp [nextOf])
  | refused r => exact absurd h (by simp [nextOf])

/-- From an answer, the next state that gives it. -/
theorem next_of_answer {o : Host.Outcome State Fault Refusal} {r : Response} (h : answer o = some r) :
    ∃ t, o = .next t ∧ t.response = some r := by
  cases o with
  | next t => exact ⟨t, rfl, h⟩
  | fault f => exact absurd h (by simp [answer])
  | refused q => exact absurd h (by simp [answer])

theorem cursorStored_of {s : State} {c : SeqNum} {e : Packet} (hc : s.cursor = some c) (he : e ∈ s.data)
    (hs : e.seq = c) : CursorStored s := by
  intro d hd
  rw [hc, Option.some.injEq] at hd
  exact ⟨e, he, hd ▸ hs⟩

theorem gap_inv : StoreInv gapState :=
  ⟨by unfold StepsWithin; decide, by unfold StepsWithin; decide,
   cursorStored_of (c := 100) (e := entry 100 0x64) (by decide) (by decide) rfl, by unfold CountsRight; decide,
   by unfold StoredPlain; decide, by unfold StoredFec StoredPlain; decide⟩

theorem witness_DecodeOfEncode : (Instr.enqData [0xAA]).wellFormed = true ∧ (Instr.responseStatus true 4).wellFormed = true := by
  decide

theorem witness_EncodeOfDecodedWireWord : ∃ i rest, decode (.wire (.rtpCsrc 14)) [0, 0, 0, 0x0B, 9] = .ok (i, rest) :=
  ⟨_, _, rfl⟩

theorem witness_StepRunsPresentedCommand :
    ((box.setPending [.command [0, 9]]).params.legal = true ∧ (box.setPending [.command [0, 9]]).phase = .port ∧
      decoded .port [0, 9] = some (.read, [9])) ∧
    ((Instr.seqdist 3 5).wellFormed = true ∧ (Instr.seqdist 3 5).slot = .port) := by decide

/-- The last four bytes of the buffer; exactly sixteen bytes in profile; exactly sixteen outside it. -/
theorem witness_StepRunsWireWord :
    (let s := (box.setStrm ⟨[1, 2, 3, 4, 0, 0, 3, 0xE8], 8, 4, true⟩).setPhase (.wire .rtpTs)
     s.params.legal = true ∧ s.strm.len = s.strm.buf.length ∧ s.strm.pos + 4 = s.strm.len ∧
      decoded (.wire .rtpTs) (s.strm.buf.drop s.strm.pos) = some (.rtpTs 1000, [])) ∧
    (let s := placeWord .fecAccepted [0, 0x64, 0, 1, 0x80, 0, 0, 0, 0, 0, 0, 0, 0x40, 2, 4, 0] box
     s.params.legal = true ∧ s.strm.len = s.strm.buf.length ∧ s.strm.pos + 16 = s.strm.len ∧
      (decoded (.wire .fecAccepted) (s.strm.buf.drop s.strm.pos)).isSome = true) ∧
    (let s := placeWord .fecAccepted [0, 0x64, 0, 1, 0, 0, 0, 0, 0, 0, 0, 0, 0x40, 2, 4, 0] box
     s.strm.ok = true ∧ s.strm.pos + 16 = s.strm.len ∧
      (decoded (.wire .fecAccepted) (s.strm.buf.drop s.strm.pos)) = none) := by decide

theorem witness_StepRunsWireWord_error :
    decode (.wire .fecAccepted) [0, 0x64, 0, 1, 0, 0, 0, 0, 0, 0, 0, 0, 0x40, 2, 4, 0] = .error .outsideProfile := rfl

theorem witness_StepRunsStatusWord :
    (box.setPhase (.respond (statusWord true 4))).params.legal = true ∧ statusProduced (statusWord true 4) = true := by decide

theorem witness_RestingAndRefusedSteps :
    (box.params.legal = true ∧ box.phase = .port ∧ box.pending = []) ∧
    (startState { t1 with dataMax := 0 } []).params.dataMax < 1 ∧
    (startState { t1 with pktMax := 15 } []).params.pktMax < 16 := by decide

/-- One byte more than `PKT_MAX`. -/
theorem witness_LongBufferRefused : box.params.pktMax < (List.replicate 65 (0 : Byte)).length := by decide

/-- A reader whose position is 4, 2, 1 or 0 bytes before the end. -/
theorem witness_StreamReads :
    (let s := box.setStrm ⟨[1, 2, 3, 4, 5], 5, 1, true⟩
     s.strm.len = s.strm.buf.length ∧ s.strm.pos ≤ s.strm.len ∧ s.strm.pos + 4 = s.strm.len ∧ s.strm.pos + 2 ≤ s.strm.len ∧
      s.strm.len < s.strm.pos + 5) ∧
    (let s := box.setStrm ⟨[1, 2, 3, 4, 5], 5, 3, true⟩
     s.strm.pos + 2 = s.strm.len ∧ s.strm.len < s.strm.pos + 4) ∧
    (let s := box.setStrm ⟨[1, 2, 3, 4, 5], 5, 4, true⟩
     s.strm.pos ≤ s.strm.len ∧ s.strm.len < s.strm.pos + 2) ∧
    (let s := box.setStrm ⟨[1, 2, 3, 4, 5], 5, 5, true⟩
     s.strm.pos ≤ s.strm.len ∧ s.strm.pos + 0 ≤ s.strm.len) := by decide

/-- The three cases of R117, at a buffer of exactly `PKT_MAX` bytes, and V15, V10, V20. -/
theorem witness_DecRtpIsClosedForm :
    (let b := 0x80 :: List.replicate 63 (0 : Byte)
     b.length = box.params.pktMax ∧ isTruncated b = false ∧ isMalformed b = false) ∧
    isTruncated [0x80, 0, 0, 1, 0, 0, 0, 0, 0, 0, 0] = true ∧
    (let b : List Byte := [0xA0, 0, 0, 7, 0, 0, 0, 0, 0, 0, 0, 0, 3]
     isTruncated b = false ∧ isMalformed b = true) ∧
    isTruncated [0xB0, 0, 0, 1, 0, 0, 0, 0, 0, 0, 0, 1, 0, 1, 0, 9, 0xFF] = true := by decide

theorem witness_WordByWordIsDecRtp :
    box.params.legal = true ∧ (0x80 :: List.replicate 63 (0 : Byte)).length ≤ box.params.pktMax := by decide

/-- V14 and a buffer with every unchecked field changed. -/
theorem witness_UncheckedFieldsDecideNothing :
    let b₁ : List Byte := [0x80, 0, 0, 1, 0, 0, 0, 0, 0, 0, 0, 1, 9]
    let b₂ : List Byte := [0x00, 0xFF, 0x12, 0x34, 0xFF, 0xFF, 0xFF, 0xFF, 1, 2, 3, 4, 9]
    b₁.length = b₂.length ∧ (byteAt b₁ 0).toNat % 64 = (byteAt b₂ 0).toNat % 64 ∧ b₁.drop 12 = b₂.drop 12 ∧
      (answer (exec (.decRtp b₁) box)).isSome = true ∧ (answer (exec (.decRtp b₂) box)).isSome = true := by decide

/-- The three places after the fixed header. -/
theorem witness_FixedHeaderRows :
    0 < (box.setPkt { PktRegs.idle with cc := 1 }).pkt.cc.toNat ∧
    ((box.setPkt { PktRegs.idle with extension := true }).pkt.cc = 0 ∧
      (box.setPkt { PktRegs.idle with extension := true }).pkt.extension = true) ∧
    (box.pkt.cc = 0 ∧ box.pkt.extension = false) := by decide

/-- Index 13 of 15 with one more to come, and the last one. -/
theorem witness_CsrcRow :
    (let s := box.setPkt { PktRegs.idle with cc := 15 }
     (13 : Fin 15).val + 1 < s.pkt.cc.toNat ∧ (13 : Fin 15).val + 1 < 15 ∧ s.pkt.cc.toNat ≤ (14 : Fin 15).val + 1) := by decide

/-- A length equal to what remains, and one more. -/
theorem witness_ExtensionRow :
    let s := openStream [1, 2, 3, 0x99] box
    s.strm.len = s.strm.buf.length ∧ s.strm.pos ≤ s.strm.len ∧ (⟨0, 4⟩ : RtpExt).length.toNat = s.strm.len - s.strm.pos ∧
      s.strm.len - s.strm.pos < (⟨0, 5⟩ : RtpExt).length.toNat := by decide

theorem witness_DecFecResult :
    (List.replicate 15 (0 : Byte)).length < 16 ∧ (List.replicate 15 (0 : Byte)).length ≤ box.params.pktMax ∧
    ¬ (List.replicate 16 (0 : Byte)).length < 16 ∧ (List.replicate 16 (0 : Byte)).length ≤ box.params.pktMax := by decide

theorem witness_WordByWordIsDecFec :
    box.params.legal = true ∧ 16 ≤ (List.replicate 16 (0 : Byte)).length ∧ (List.replicate 15 (0 : Byte)).length < 16 ∧
      (List.replicate 16 (0 : Byte)).length ≤ box.params.pktMax := by decide

theorem witness_FecRows : box.strm.ok = true ∧ (outOfBounds box).strm.ok = false := by decide

theorem witness_AcceptedRowIsTheProfile :
    let b : List Byte := [0, 0x64, 0, 1, 0x80, 0, 0, 0, 0, 0, 0, 0, 0x40, 2, 4, 0]
    16 ≤ b.length ∧ (decoded (.wire .fecAccepted) b).isSome = true ∧ fecProfile (closedFecHeader b) = true ∧
      box.strm.ok = true ∧ (outOfBounds box).strm.ok = false := by decide

/-- Fifteen bytes, sixteen in the profile, sixteen outside it. -/
theorem witness_AcceptedRowOverABuffer :
    let b : List Byte := [0, 0x64, 0, 1, 0x80, 0, 0, 0, 0, 0, 0, 0, 0x40, 2, 4, 0]
    box.params.legal = true ∧ (b.take 15).length < 16 ∧ ¬ b.length < 16 ∧ fecProfile (closedFecHeader b) = true ∧
      fecProfile (closedFecHeader (b.set 4 0)) = false := by decide

theorem witness_FecLastFormula :
    (header 100 2 0).na = 0 ∧ (header 100 5 1).na = 1 ∧ (header 100 0 7).offset = 0 := by decide

/-- The source's example at the cursor 106; and a range and lag of exactly half the space. -/
theorem witness_StaleIsTheWholeRange :
    (1 ≤ (header 100 2 4).na.toNat ∧
      ((header 100 2 4).offset.toNat * ((header 100 2 4).na.toNat - 1) : Int) - Machine.dist (fecLast (header 100 2 4)) 106 ≤ 32768 ∧
      fecStale (header 100 2 4) 106 = true) ∧
    (1 ≤ (header 0 1 1).na.toNat ∧
      ((header 0 1 1).offset.toNat * ((header 0 1 1).na.toNat - 1) : Int) - Machine.dist (fecLast (header 0 1 1)) 32768 = 32768) := by
  decide

/-- Both sides of the antipode. -/
theorem witness_DistanceLaws :
    Machine.dist 5 3 ≠ -32768 ∧ Machine.dist 32768 0 = -32768 ∧ Machine.dist (0 + BitVec.ofNat 16 32767) 0 = 32767 ∧
      Machine.dist (0 + BitVec.ofNat 16 32768) 0 = 32768 - 65536 := by decide

/-- R163's three answers: QD3, QD5, QD6; and a distance of exactly `MAX_DISTANCE` (QD7). -/
theorem witness_InsertScanAnswer :
    insertScan 100 (fun e => e.seq) [entry 3 3, entry 5 5] 4 = .insertAt 1 ∧
    insertScan 100 (fun e => e.seq) [entry 3 3, entry 4 4, entry 5 5] 4 = .duplicate ∧
    insertScan 100 (fun e => e.seq) [entry 100 0, entry 102 0] 300 = .outOfWindow ∧
    insertScan 100 (fun e => e.seq) [entry 100 0, entry 102 0] 202 = .insertAt 2 := by decide

/-- Each outcome of R161: V15's short buffer, V10, `marker` = 1, a full store, QD6, QD5, QD3. -/
theorem witness_EnqDataResult :
    [answer (exec (.enqData [0x80, 0, 0, 1, 0, 0, 0, 0, 0, 0, 0]) box), answer (exec (.enqData [0xA0, 0, 0, 7, 0, 0, 0, 0, 0, 0, 0, 0, 3]) box),
     answer (exec (.enqData [0x80, 0x80, 0, 1, 0, 0, 0, 0, 0, 0, 0, 1, 0xAA]) box),
     answer (exec (.enqData (dataBuf 12 12)) fullState),
     answer (exec (.enqData (dataBuf 300 0x2C)) gapState), answer (exec (.enqData (dataBuf 102 0x77)) gapState),
     answer (exec (.enqData (dataBuf 101 0x65)) gapState)].map (Option.map (fun r => r.status)) =
      [some 0b1000, some 0b1001, some 0b1010, some 0b1011, some 0b1100, some 0b0001, some 0b0000] := by decide

/-- Each outcome of R164: V15, V10, `pt` = 0 (QF14), a full store, a short FEC header, `e` = 0 (QF10), stale (P3 step
7), same base, out of the window, accepted. -/
theorem witness_EnqFecResult :
    [answer (exec (.enqFec [0x80, 0, 0, 1, 0, 0, 0, 0, 0, 0, 0]) box), answer (exec (.enqFec [0xA0, 0, 0, 7, 0, 0, 0, 0, 0, 0, 0, 0, 3]) box),
     answer (exec (.enqFec (dataBuf 5 5)) box), answer (exec (.enqFec (fecBuf 1 100 2 4)) (box.setFecl [] 4)),
     answer (exec (.enqFec ((fecBuf 1 100 2 4).take 27)) box),
     answer (exec (.enqFec ((fecBuf 1 100 2 4).set 16 0)) box), answer (exec (.enqFec (fecBuf 2 96 1 4)) gapState),
     answer (exec (.enqFec (fecBuf 2 100 2 5)) gapState), answer (exec (.enqFec (fecBuf 2 201 2 5)) gapState),
     answer (exec (.enqFec (fecBuf 2 200 2 5)) gapState)].map (Option.map (fun r => r.status)) =
      [some 0b1000, some 0b1001, some 0b1010, some 0b1011, some 0b1000, some 0b1010, some 0b0001, some 0b0001,
       some 0b1100, some 0b0000] := by decide

theorem witness_EnqueueFrame :
    (∃ t r, exec (.enqData (dataBuf 300 0x2C)) gapState = .next t ∧ t.response = some r ∧ r.status ≠ 0b0000) ∧
    (∃ t r, exec (.enqFec (fecBuf 2 96 1 4)) gapState = .next t ∧ t.response = some r ∧ r.status ≠ 0b0000) := by
  have h₁ : answer (exec (.enqData (dataBuf 300 0x2C)) gapState) = some { status := 0b1100, value := .count 0 } := by decide
  have h₂ : answer (exec (.enqFec (fecBuf 2 96 1 4)) gapState) = some { status := 0b0001, value := .count 29 } := by decide
  obtain ⟨t, ht, hr⟩ := next_of_answer h₁
  obtain ⟨u, hu, hv⟩ := next_of_answer h₂
  exact ⟨⟨t, _, ht, hr, by decide⟩, ⟨u, _, hu, hv, by decide⟩⟩

/-- The cases of `READ`: no cursor, cursor at the tail, a gap, a delivery. -/
theorem witness_ReadResult :
    [answer (exec .read box), answer (exec .read (holding [entry 3 3] none)), answer (exec .read (holding [entry 3 3] (some 3))),
     answer (exec .read gapState), answer (exec .read wrapState)].map (Option.map (fun r => r.status)) =
      [some 0b0011, some 0b0010, some 0b0011, some 0b0011, some 0b0010] ∧ CursorStored gapState ∧ CursorStored wrapState :=
  ⟨by decide, cursorStored_of (c := 100) (e := entry 100 0x64) (by decide) (by decide) rfl,
   cursorStored_of (c := 65535) (e := entry 65535 0xFF) (by decide) (by decide) rfl⟩

theorem witness_ReadStopsOnlyWithoutCursorEntry :
    (gapState.data = [] ∨ CursorStored gapState) ∧
    ¬ ((holding [entry 3 3] (some 4)).data = [] ∨ CursorStored (holding [entry 3 3] (some 4))) := by
  refine ⟨.inr gap_inv.2.2.1, ?_⟩
  rintro (h | h)
  · exact absurd h (by decide)
  · obtain ⟨e, he, hs⟩ := h 4 rfl
    exact absurd (List.mem_singleton.1 he ▸ hs : (entry 3 3).seq = 4) (by decide)

/-- RF7: two entries go. -/
theorem witness_DeliveryEvictsOnlyOldEntries :
    let o := exec .read (holding [entry 99 0, entry 100 0, entry 101 0, entry 102 0, entry 103 0x67] (some 102))
    answer o = some { status := 0b0010, value := .bytes [0x67] } ∧ field (fun t => t.cursor) o = some (some 103) ∧
      field dataKeys o = some [101, 102, 103] := by decide

/-- RF5. -/
theorem witness_DeliveriesAreConsecutive :
    wrapState.cursor = some 65535 ∧ answer (exec .read wrapState) = some { status := 0b0010, value := .bytes [0] } ∧
      field (fun t => t.cursor) (exec .read wrapState) = some (some 0) := by decide

/-- RF4. -/
theorem witness_NotReadyRepeats :
    answer (exec .read gapState) = some { status := 0b0011, value := .none } := by decide

/-- Three entries across 65535, none delivered. -/
theorem witness_DrainDeliversInOrder :
    let s := holding [entry 65534 1, entry 65535 2, entry 0 3] none
    s.cursor = none ∧ s.data.length ≤ 32768 ∧
      ∀ (i : Nat) (e : Packet), s.data[i]? = some e → e.seq = 65534 + BitVec.ofNat 16 i := by
  refine ⟨by decide, by decide, ?_⟩
  intro i e h
  match i, h with
  | 0, h => exact Option.some.inj h ▸ rfl
  | 1, h => exact Option.some.inj h ▸ rfl
  | 2, h => exact Option.some.inj h ▸ rfl
  | n + 3, h => exact absurd h (by simp [holding])

/-- P6. -/
theorem witness_FullStoreBehindGapIsLocked :
    fullState.phase = .port ∧ fullState.params.dataMax ≤ fullState.dataCount ∧
      answer (exec .read fullState) = some { status := 0b0011, value := .none } ∧ (∀ e ∈ fullState.pending, e ≠ .reset) := by
  decide

/-- QD6. -/
theorem witness_RejectionChangesNothing :
    (Instr.enqData (dataBuf 300 0x2C)).slot = .port ∧
      ∃ t r, exec (.enqData (dataBuf 300 0x2C)) gapState = .next t ∧ t.response = some r ∧ r.status.msb = true := by
  have h : answer (exec (.enqData (dataBuf 300 0x2C)) gapState) = some { status := 0b1100, value := .count 0 } := by decide
  obtain ⟨t, ht, hr⟩ := next_of_answer h
  exact ⟨rfl, t, _, ht, hr, by decide⟩

/-- V15, and a READ after it. -/
theorem witness_RejectedCommandLeavesNoTrace :
    (Instr.enqData [0x80, 0, 0, 1, 0, 0, 0, 0, 0, 0, 0]).slot = .port ∧ Instr.read.slot = .port ∧
      ∃ t r, exec (.enqData [0x80, 0, 0, 1, 0, 0, 0, 0, 0, 0, 0]) gapState = .next t ∧ t.response = some r ∧ r.status.msb = true := by
  have h : answer (exec (.enqData [0x80, 0, 0, 1, 0, 0, 0, 0, 0, 0, 0]) gapState) = some { status := 0b1000, value := .count 0 } := by decide
  obtain ⟨t, ht, hr⟩ := next_of_answer h
  exact ⟨rfl, rfl, t, _, ht, hr, by decide⟩

theorem witness_StatusesOfEachCommand : Instr.read.slot = .port ∧ ∃ t, exec .read gapState = .next t :=
  ⟨rfl, next_of_isSome (by decide)⟩

theorem witness_StatusRow :
    statusProduced (statusWord true 4) = true ∧ statusProduced (statusWord false 3) = true ∧
    statusProduced (statusWord false 0) = true ∧ statusProduced (statusWord true 5) = false ∧
    statusProduced (statusWord false 4) = false := by decide

theorem witness_ResetForgets :
    let s := gapState.setPending [.reset, .reset]
    s.params.legal = true ∧ s.phase = .port ∧ s.pending = .reset :: [.reset] ∧ (nextOf (step s)).isSome = true ∧
      (nextOf (step (box.setPending [.reset, .reset]))).isSome = true := by decide

theorem witness_WhoWritesTheStores : ∃ t, exec (.seqdist 3 5) gapState = .next t := next_of_isSome (by decide)

theorem witness_CursorLostOnlyByReset :
    (gapState.setPending [.reset]).cursor ≠ none ∧ field (fun t => t.cursor) (step (gapState.setPending [.reset])) = some none := by
  decide

theorem witness_CommandsReadNoTransient : (Instr.enqFec (fecBuf 1 100 2 4)).slot = .port := rfl

theorem witness_DrawsDecideNothing : (Instr.decRtp [0x80]).slot = .port := rfl

theorem witness_StepsKeepBoundaryAndParameters :
    Instr.read.slot = .port ∧ (∃ t, exec .read gapState = .next t) ∧ AtBoundary (gapState.setPending [.command [0]]) ∧
      ∃ t, step (gapState.setPending [.command [0]]) = .next t :=
  ⟨rfl, next_of_isSome (by decide), ⟨rfl, rfl, rfl, rfl, rfl⟩, next_of_isSome (by decide)⟩

/-- The command that fills the gap of P3 step 8, from a state with the invariant and an entry in each list. -/
theorem witness_StepKeepsStoreInvariant :
    StoreInv (gapState.setPending [.command (encode (.enqData (dataBuf 101 0x65)))]) ∧
      ∃ t, step (gapState.setPending [.command (encode (.enqData (dataBuf 101 0x65)))]) = .next t :=
  ⟨gap_inv, next_of_isSome (by decide)⟩

theorem witness_StoreInvariantGivesOrder : gapState.params.ordered ∧ StoreInv gapState :=
  ⟨by unfold Params.ordered; decide, gap_inv⟩

/-- Two commands from reset: P1 steps 1 and 2. -/
theorem witness_SpecInvariantsHoldOnEveryRun :
    t1.ordered ∧ ∃ t, runSteps 2 (startState t1 [.command (encode (.enqData (dataBuf 5 5))),
      .command (encode (.enqData (dataBuf 3 3)))]) = .next t :=
  ⟨by unfold Params.ordered; decide, next_of_isSome (by decide)⟩

end Sys2Proof.Tests
end

/-! PROOFS. The step at a command boundary: command frames decode to what was encoded (R80, R81), and the step runs the
command. -/

namespace Sys2Proof.Machine

/-! ### Command frames (R80, log 3) -/

/-- The operands `len` and `buf` of a command are read back, whatever follows them. -/
theorem decodeBuf_encodeLen (mk : List Byte → Instr) (buf rest : List Byte) :
    decodeBuf mk (encodeLen buf.length ++ buf ++ rest) = .ok (mk buf, rest) := by
  rw [decodeBuf, List.append_assoc, decodeLen_encodeLen]
  simp

theorem be16_bytes16 (w : U16) : be16 (w.extractLsb' 8 8) (w.extractLsb' 0 8) = w := by
  rw [be16, BitVec.extractLsb'_append_extractLsb'_eq_extractLsb' (by rfl)]
  simp

theorem decodeSeqdist_bytes16 (a b : SeqNum) (rest : List Byte) :
    decodeSeqdist (bytes16 a ++ bytes16 b ++ rest) = .ok (.seqdist a b, rest) := by
  simp only [bytes16, List.cons_append, List.nil_append, decodeSeqdist, be16_bytes16]

/-- Decoding the frame of a command gives the command back, and the bytes after it. -/
theorem decodePort_encode {i : Instr} (hport : i.slot = .port) (rest : List Byte) :
    decodePort (encode i ++ rest) = .ok (i, rest) := by
  cases i with
  | read | reserved3 | reserved7 => rfl
  | enqData buf => exact decodeBuf_encodeLen .enqData buf rest
  | enqFec buf => exact decodeBuf_encodeLen .enqFec buf rest
  | decRtp buf => exact decodeBuf_encodeLen .decRtp buf rest
  | decFec buf => exact decodeBuf_encodeLen .decFec buf rest
  | seqdist a b => exact decodeSeqdist_bytes16 a b rest
  | _ => cases hport

/-- With a frame presented that decodes to `i`, the step is `i` after the frame has been taken. -/
theorem step_command {s : State} {frame more : List Byte} {rest : List HostEvent} {i : Instr}
    (hlegal : s.params.legal = true) (hphase : s.phase = .port) (hpending : s.pending = .command frame :: rest)
    (hdecode : decode .port frame = .ok (i, more)) : step s = exec i (s.setPending rest) := by
  simp only [step, hlegal, if_true, hphase, portStep, hpending, runAt, hdecode]

/-- Settles O4: the step decodes the frame, and the frame of a command decodes to that command. -/
theorem stepRunsPresentedCommand : Obligations.StepRunsPresentedCommand := by
  refine ⟨fun s frame more rest i hlegal hphase hpending hdecode => step_command hlegal hphase hpending hdecode, ?_⟩
  intro s rest i hlegal hphase _ hport hpending
  have hdecode := decodePort_encode hport []
  rw [List.append_nil] at hdecode
  exact step_command hlegal hphase hpending hdecode

end Sys2Proof.Machine

/-! PROOFS. From the gaps between neighbours to the order of a whole list (R7, R31). -/

namespace Sys2Proof.Machine

/-! ### Distances (R150, R151) -/

theorem dist_eq_toInt (a b : SeqNum) : dist a b = (a - b).toInt := by
  simp only [dist, toS16, BitVec.toInt_eq_toNat_cond]
  split <;> split <;> omega

theorem dist_self (a : SeqNum) : dist a a = 0 := by simp [dist_eq_toInt]

/-- Distances add up while the sum can be represented. -/
theorem dist_add {a b c : SeqNum} (hlo : -32768 ≤ dist c b + dist b a) (hhi : dist c b + dist b a ≤ 32767) :
    dist c a = dist c b + dist b a := by
  have hsum : c - a = (c - b) + (b - a) := by ring
  simp only [dist_eq_toInt] at *
  rw [hsum, BitVec.toInt_add, Int.bmod_eq_of_le] <;> omega

/-- Turning a distance round; -32768 has no opposite. -/
theorem dist_swap {a b : SeqNum} (h : dist a b ≠ -32768) : dist b a = -dist a b := by
  have hneg : b - a = -(a - b) := by ring
  simp only [dist_eq_toInt] at *
  rw [hneg, BitVec.toInt_neg_of_ne_intMin]
  rintro hmin
  exact h (by rw [hmin]; rfl)

/-! ### The order that the gaps give (R7, R31) -/

/-- `n` steps further in the list, the distance is from `n` to `n * m`, while that can be represented. -/
theorem StepsWithin.dist_bounds {m : Nat} {keys : List SeqNum} (hkeys : StepsWithin m keys) {n i : Nat} {a b : SeqNum}
    (ha : keys[i]? = some a) (hb : keys[i + n]? = some b) (hn : n * m ≤ 32767) :
    (n : Int) ≤ dist b a ∧ dist b a ≤ (n * m : Nat) := by
  induction n generalizing b with
  | zero =>
    obtain rfl : a = b := by simpa [ha] using hb
    simp [dist_self]
  | succ n ih =>
    rw [← Nat.add_assoc] at hb
    obtain ⟨hlt, rfl⟩ := List.getElem?_eq_some_iff.1 hb
    have hprior : i + n < keys.length := Nat.lt_of_succ_lt hlt
    have hgap := List.isChain_iff_getElem.1 hkeys (i + n) hlt
    rw [Nat.add_mul, Nat.one_mul] at hn ⊢
    have hprev := ih (List.getElem?_eq_getElem hprior) (by omega)
    have hadd := dist_add (a := a) (b := keys[i + n]) (c := keys[i + n + 1]) (by omega) (by omega)
    rw [hadd]
    omega

theorem StepsWithin.orderedFromFirst {m : Nat} {keys : List SeqNum} (hkeys : StepsWithin m keys)
    (hlen : (keys.length - 1) * m ≤ 32767) : OrderedFromFirst keys := by
  intro first i j a b hfirst ha hb hij
  have hj := (List.getElem?_eq_some_iff.1 hb).1
  have hmul : j * m ≤ (keys.length - 1) * m := Nat.mul_le_mul_right m (by omega)
  obtain ⟨n, rfl⟩ := Nat.exists_eq_add_of_lt hij
  have hsplit : (i + n + 1) * m = i * m + (n + 1) * m := by ring
  have hfa := hkeys.dist_bounds hfirst (by rwa [Nat.zero_add]) (n := i) (b := a) (by omega)
  have hab := hkeys.dist_bounds ha hb (n := n + 1) (by omega)
  rw [dist_add (a := first) (b := a) (c := b) (by omega) (by omega)]
  omega

theorem StepsWithin.nodup {m : Nat} {keys : List SeqNum} (hkeys : StepsWithin m keys)
    (hlen : (keys.length - 1) * m ≤ 32767) : keys.Nodup := by
  rw [List.nodup_iff_pairwise_ne, List.pairwise_iff_getElem]
  intro i j hi hj hij heq
  have hmul : j * m ≤ (keys.length - 1) * m := Nat.mul_le_mul_right m (by omega)
  obtain ⟨n, rfl⟩ := Nat.exists_eq_add_of_lt hij
  have hsplit : (i + n + 1) * m = i * m + (n + 1) * m := by ring
  have hgap := hkeys.dist_bounds (List.getElem?_eq_getElem hi) (List.getElem?_eq_getElem hj) (n := n + 1) (by omega)
  rw [heq, dist_self] at hgap
  omega

/-- A list of no more than `cap` keys meets the condition of R7 on `cap`. -/
theorem order_room {m cap : Nat} {l : List SeqNum} (hcap : (cap - 1) * m ≤ 32767) (hl : l.length ≤ cap) :
    (l.length - 1) * m ≤ 32767 :=
  (Nat.mul_le_mul_right m (by omega)).trans hcap

/-- Settles O50: within the room that R7 leaves, distances in a list add up, so the gaps between neighbours order it. -/
theorem storeInvariantGivesOrder : Obligations.StoreInvariantGivesOrder := by
  rintro s ⟨hdataMax, hfecMax⟩ ⟨hdata, hfecl, hcursor, hcounts, hplain, hfec⟩
  have hcsrc (e : Packet) : StoredPlain e → e.csrc.length = e.cc.toNat := by
    rintro ⟨-, -, -, hcc, hcsrc, -⟩
    rw [hcc, hcsrc]
    rfl
  have ⟨hdataCount, hdataFits, hfecCount, hfecFits⟩ := hcounts
  have hdataRoom := order_room hdataMax (l := s.data.map (fun e => e.seq)) (by rw [List.length_map]; omega)
  have hfecRoom := order_room hfecMax (l := s.fecl.map fecKey) (by rw [List.length_map]; omega)
  refine ⟨hdata.orderedFromFirst hdataRoom, hdata.nodup hdataRoom, hfecl.orderedFromFirst hfecRoom,
    hfecl.nodup hfecRoom, hcursor, hcounts, hplain, hfec, ?_⟩
  rintro e (he | he)
  · exact hcsrc e (hplain e he).1
  · exact hcsrc e (hfec e he).1

end Sys2Proof.Machine

/-! PROOFS. The stream reader by the bytes of its buffer (R51, R53, R54), and the fields of the words it reads. -/

namespace Sys2Proof.Machine

/-! ### Bytes of the buffer as numbers (R51) -/

theorem toNat_append_eq {m n : Nat} (x : BitVec m) (y : BitVec n) : (x ++ y).toNat = x.toNat * 2 ^ n + y.toNat := by
  rw [BitVec.toNat_append, ← Nat.shiftLeft_add_eq_or_of_lt y.isLt, Nat.shiftLeft_eq]

theorem be16_toNat (b0 b1 : Byte) : (be16 b0 b1).toNat = b0.toNat * 256 + b1.toNat := toNat_append_eq b0 b1

theorem be32_toNat (b0 b1 b2 b3 : Byte) :
    (be32 b0 b1 b2 b3).toNat = b0.toNat * 2 ^ 24 + b1.toNat * 2 ^ 16 + b2.toNat * 2 ^ 8 + b3.toNat := by
  simp only [be32, toNat_append_eq]
  omega

theorem value16_lt (buf : List Byte) (i : Nat) : value16 buf i < 2 ^ 16 := by
  simp only [value16]
  omega

theorem value32_lt (buf : List Byte) (i : Nat) : value32 buf i < 2 ^ 32 := by
  simp only [value32]
  omega

theorem memByte_eq_byteAt {s : State} {addr : Nat} (h : addr < s.strm.buf.length) :
    memByte s addr = byteAt s.strm.buf addr := by
  simp [memByte, byteAt, List.getD, h]

theorem memRead16_eq {s : State} {addr : Nat} (h : addr + 2 ≤ s.strm.buf.length) :
    memRead16 s addr = BitVec.ofNat 16 (value16 s.strm.buf addr) := by
  apply BitVec.eq_of_toNat_eq
  rw [memRead16, be16_toNat, memByte_eq_byteAt (by omega), memByte_eq_byteAt (by omega), BitVec.toNat_ofNat,
    Nat.mod_eq_of_lt (value16_lt _ _), value16]

theorem memRead32_eq {s : State} {addr : Nat} (h : addr + 4 ≤ s.strm.buf.length) :
    memRead32 s addr = BitVec.ofNat 32 (value32 s.strm.buf addr) := by
  apply BitVec.eq_of_toNat_eq
  rw [memRead32, be32_toNat, memByte_eq_byteAt (by omega), memByte_eq_byteAt (by omega), memByte_eq_byteAt (by omega),
    memByte_eq_byteAt (by omega), BitVec.toNat_ofNat, Nat.mod_eq_of_lt (value32_lt _ _), value32]

theorem map_memByte_range' {s : State} {addr n : Nat} (h : addr + n ≤ s.strm.buf.length) :
    (List.range' addr n).map (memByte s) = (s.strm.buf.drop addr).take n := by
  apply List.ext_getElem
  · simp; omega
  · intro i hi _
    have hn : i < n := by simpa using hi
    rw [List.getElem_map, List.getElem_range', memByte_eq_byteAt (by omega)]
    simp [byteAt, List.getD, show addr + i < s.strm.buf.length by omega]

/-! ### Where a reader stands that has been asked for `n` bytes (R53, R54) -/

/-- A read has run off the end: the flag is down, and nothing remains. -/
def RanOff (x : Stream) : Prop := x.ok = false ∧ x.pos = x.len

/-- The reader over `buf` after reads of `n` bytes in all: still inside at `n`, or off the end. -/
def Asked (buf : List Byte) (n : Nat) (x : Stream) : Prop :=
  (n ≤ buf.length ∧ x = { buf := buf, len := buf.length, pos := n, ok := true }) ∨ (buf.length < n ∧ RanOff x)

theorem asked_openStream (buf : List Byte) (s : State) : Asked buf 0 (openStream buf s).strm :=
  .inl ⟨Nat.zero_le _, rfl⟩

theorem Asked.inside {buf : List Byte} {n : Nat} {x : Stream} (h : Asked buf n x) (hn : n ≤ buf.length) :
    x = { buf := buf, len := buf.length, pos := n, ok := true } := by
  obtain ⟨_, hx⟩ | ⟨hlt, _⟩ := h
  · exact hx
  · omega

theorem Asked.ranOff {buf : List Byte} {n : Nat} {x : Stream} (h : Asked buf n x) (hn : buf.length < n) : RanOff x := by
  obtain ⟨hle, _⟩ | ⟨_, hx⟩ := h
  · omega
  · exact hx

/-- What the three reads share: an advance where `k` more bytes are there, otherwise off the end. -/
theorem Asked.read {buf : List Byte} {n : Nat} {s : State} (h : Asked buf n s.strm) (k d : Nat) :
    Asked buf (n + k)
      (if s.strm.pos + k ≤ s.strm.len then (advance k s).strm else (countDraws d (outOfBounds s)).strm) := by
  have off : RanOff (countDraws d (outOfBounds s)).strm := ⟨rfl, rfl⟩
  obtain ⟨hn, hx⟩ | ⟨hlt, hok, hpos⟩ := h
  · simp only [hx]
    split
    · exact .inl ⟨‹_›, by simp [advance, hx]⟩
    · exact .inr ⟨by omega, off⟩
  · split
    · exact .inr ⟨by omega, hok, by simp only [advance, State.setStrm_strm]; omega⟩
    · exact .inr ⟨by omega, off⟩

theorem Asked.rd16 {buf : List Byte} {n : Nat} {s : State} (h : Asked buf n s.strm) :
    Asked buf (n + 2) (rd16 s).2.strm := by
  have := h.read 2 1
  unfold Machine.rd16
  split <;> simp_all only [if_true, if_false]

theorem Asked.rd32 {buf : List Byte} {n : Nat} {s : State} (h : Asked buf n s.strm) :
    Asked buf (n + 4) (rd32 s).2.strm := by
  have := h.read 4 1
  unfold Machine.rd32
  split <;> simp_all only [if_true, if_false]

theorem Asked.rdbytes {buf : List Byte} {n : Nat} {s : State} (h : Asked buf n s.strm) (k : Nat) :
    Asked buf (n + k) (rdbytes k s).2.strm := by
  have := h.read k k
  unfold Machine.rdbytes
  split <;> simp_all only [if_true, if_false]

theorem Asked.rdPair {buf : List Byte} {n : Nat} {s : State} (h : Asked buf n s.strm) :
    Asked buf (n + 4) (rdPair s).2.strm := h.rd16.rd16

theorem Asked.rd16_value {buf : List Byte} {n : Nat} {s : State} (h : Asked buf n s.strm) (hn : n + 2 ≤ buf.length) :
    (Machine.rd16 s).1 = BitVec.ofNat 16 (value16 buf n) := by
  have hx := h.inside (by omega)
  rw [Machine.rd16, if_pos (by rw [hx]; exact hn), memRead16_eq (by rw [hx]; exact hn), hx]

theorem Asked.rd32_value {buf : List Byte} {n : Nat} {s : State} (h : Asked buf n s.strm) (hn : n + 4 ≤ buf.length) :
    (Machine.rd32 s).1 = BitVec.ofNat 32 (value32 buf n) := by
  have hx := h.inside (by omega)
  rw [Machine.rd32, if_pos (by rw [hx]; exact hn), memRead32_eq (by rw [hx]; exact hn), hx]

theorem Asked.rdbytes_value {buf : List Byte} {n k : Nat} {s : State} (h : Asked buf n s.strm)
    (hn : n + k ≤ buf.length) : (Machine.rdbytes k s).1 = (buf.drop n).take k := by
  have hx := h.inside (by omega)
  rw [Machine.rdbytes, if_pos (by rw [hx]; exact hn), map_memByte_range' (by rw [hx]; exact hn), hx]

theorem Asked.rdPair_value {buf : List Byte} {n : Nat} {s : State} (h : Asked buf n s.strm)
    (hn : n + 4 ≤ buf.length) : (Machine.rdPair s).1 = BitVec.ofNat 32 (value32 buf n) := by
  have hhi := h.rd16_value (by omega)
  have hlo := h.rd16.rd16_value (by omega)
  apply BitVec.eq_of_toNat_eq
  rw [Machine.rdPair, toNat_append_eq, hhi, hlo]
  simp only [BitVec.toNat_ofNat, value16, value32, Nat.add_assoc, Nat.reduceAdd]
  omega

@[simp] theorem rd16_pkt (s : State) : (rd16 s).2.pkt = s.pkt := by rw [rd16_frame]; rfl
@[simp] theorem rd32_pkt (s : State) : (rd32 s).2.pkt = s.pkt := by rw [rd32_frame]; rfl
@[simp] theorem rdbytes_pkt (n : Nat) (s : State) : (rdbytes n s).2.pkt = s.pkt := by rw [rdbytes_frame]; rfl
@[simp] theorem rdPair_pkt (s : State) : (rdPair s).2.pkt = s.pkt := by rw [rdPair_frame]; rfl
@[simp] theorem rd32_fec (s : State) : (rd32 s).2.fec = s.fec := by rw [rd32_frame]; rfl
@[simp] theorem rdPair_fec (s : State) : (rdPair s).2.fec = s.fec := by rw [rdPair_frame]; rfl

/-! ### The fields of the words, by bytes (R83, R85, R87) -/

/-- Bits `lo` to `lo + n - 1` of a number. -/
theorem bitsAt_ofNat {m v : Nat} (hv : v < 2 ^ m) (lo n : Nat) :
    bitsAt (BitVec.ofNat m v) lo n = BitVec.ofNat n (v / 2 ^ lo) := by
  apply BitVec.eq_of_toNat_eq
  rw [bitsAt, BitVec.extractLsb'_toNat, BitVec.toNat_ofNat, BitVec.toNat_ofNat, Nat.mod_eq_of_lt hv,
    Nat.shiftRight_eq_div_pow]

theorem bitAt_ofNat {m v : Nat} (hv : v < 2 ^ m) (i : Nat) :
    bitAt (BitVec.ofNat m v) i = (v / 2 ^ i % 2 == 1) := by
  rw [bitAt, BitVec.getLsbD, BitVec.toNat_ofNat, Nat.mod_eq_of_lt hv, Nat.testBit_eq_decide_div_mod_eq]
  rfl

theorem bitVec_ofNat_congr {n v w : Nat} (h : v % 2 ^ n = w % 2 ^ n) : BitVec.ofNat n v = BitVec.ofNat n w :=
  BitVec.eq_of_toNat_eq (by simpa using h)

theorem rtpW0Seq_ofWord (buf : List Byte) :
    RtpW0Seq.ofWord (BitVec.ofNat 32 (value32 buf 0)) =
      { version := (closedPacket buf).version, padding := headPad buf, extension := headExt buf,
        cc := BitVec.ofNat 4 (headCc buf), marker := (closedPacket buf).marker, pt := (closedPacket buf).pt,
        seq := (closedPacket buf).seq } := by
  have hv := value32_lt buf 0
  simp only [RtpW0Seq.ofWord, bitsAt_ofNat hv, bitAt_ofNat hv, closedPacket, RtpW0Seq.mk.injEq, headPad, headExt,
    headCc]
  simp only [value32, value16, Nat.add_assoc, Nat.reduceAdd]
  refine ⟨bitVec_ofNat_congr ?_, congrArg (· == 1) ?_, congrArg (· == 1) ?_, bitVec_ofNat_congr ?_,
    congrArg (· == 1) ?_, bitVec_ofNat_congr ?_, bitVec_ofNat_congr ?_⟩ <;> omega

theorem rtpExt_ofWord (buf : List Byte) (n : Nat) :
    RtpExt.ofWord (BitVec.ofNat 32 (value32 buf n)) =
      { id := BitVec.ofNat 16 (value16 buf n), length := BitVec.ofNat 16 (value16 buf (n + 2)) } := by
  have hv := value32_lt buf n
  simp only [RtpExt.ofWord, bitsAt_ofNat hv, RtpExt.mk.injEq]
  simp only [value32, value16, Nat.add_assoc, Nat.reduceAdd]
  refine ⟨bitVec_ofNat_congr ?_, bitVec_ofNat_congr ?_⟩ <;> omega

theorem fecBaseLen_ofWord (buf : List Byte) :
    FecBaseLen.ofWord (BitVec.ofNat 32 (value32 buf 0)) =
      { snBaseLow := (closedFecHeader buf).snBaseLow, lengthRecovery := (closedFecHeader buf).lengthRecovery } := by
  have hv := value32_lt buf 0
  simp only [FecBaseLen.ofWord, bitsAt_ofNat hv, closedFecHeader, FecBaseLen.mk.injEq]
  simp only [value32, value16, Nat.add_assoc, Nat.reduceAdd]
  refine ⟨bitVec_ofNat_congr ?_, bitVec_ofNat_congr ?_⟩ <;> omega

theorem fecW1_ofWord (buf : List Byte) :
    FecW1.ofWord (BitVec.ofNat 32 (value32 buf 4)) =
      { e := (closedFecHeader buf).e, ptRecovery := (closedFecHeader buf).ptRecovery,
        mask := (closedFecHeader buf).mask } := by
  have hv := value32_lt buf 4
  simp only [FecW1.ofWord, bitsAt_ofNat hv, bitAt_ofNat hv, closedFecHeader, FecW1.mk.injEq]
  simp only [value32, Nat.reduceAdd]
  refine ⟨congrArg (· == 1) ?_, bitVec_ofNat_congr ?_, bitVec_ofNat_congr ?_⟩ <;> omega

theorem byte_eq_ofNat {v : Nat} {b : Byte} (h : v % 256 = b.toNat) : BitVec.ofNat 8 v = b :=
  BitVec.eq_of_toNat_eq (by simpa using h)

theorem fecW2_ofWord (buf : List Byte) :
    FecW2.ofWord (BitVec.ofNat 32 (value32 buf 12)) =
      { x := (closedFecHeader buf).x, d := (closedFecHeader buf).d, type := (closedFecHeader buf).type,
        index := (closedFecHeader buf).index, offset := (closedFecHeader buf).offset, na := (closedFecHeader buf).na,
        snBaseExt := (closedFecHeader buf).snBaseExt } := by
  have hv := value32_lt buf 12
  simp only [FecW2.ofWord, bitsAt_ofNat hv, bitAt_ofNat hv, closedFecHeader, FecW2.mk.injEq]
  simp only [value32, Nat.reduceAdd]
  refine ⟨congrArg (· == 1) ?_, congrArg (· == 1) ?_, bitVec_ofNat_congr ?_, bitVec_ofNat_congr ?_, byte_eq_ofNat ?_,
    byte_eq_ofNat ?_, byte_eq_ofNat ?_⟩ <;> omega

end Sys2Proof.Machine

/-! PROOFS. The two decoders answer as their closed forms (R117, R130), whatever the state and the draws are. -/

namespace Sys2Proof.Machine

/-! ### The FEC header, word by word (R130) -/

/-- Payload offsets 0 to 3. -/
theorem Asked.fecBaseLen {buf : List Byte} {s : State} (h : Asked buf 0 s.strm) (hlen : 4 ≤ buf.length) :
    Asked buf 4 (latchFecBaseLen (FecBaseLen.ofWord (Machine.rdPair s).1) (Machine.rdPair s).2).strm ∧
    (latchFecBaseLen (FecBaseLen.ofWord (Machine.rdPair s).1) (Machine.rdPair s).2).fec =
      { s.fec with snBaseLow := (closedFecHeader buf).snBaseLow,
                   lengthRecovery := (closedFecHeader buf).lengthRecovery } := by
  refine ⟨h.rdPair, ?_⟩
  rw [h.rdPair_value hlen, fecBaseLen_ofWord, latchFecBaseLen, State.setFec_fec, rdPair_fec]

/-- Payload offsets 4 to 7. -/
theorem Asked.fecW1 {buf : List Byte} {s : State} (h : Asked buf 4 s.strm) (hlen : 8 ≤ buf.length) :
    Asked buf 8 (latchFecW1 (FecW1.ofWord (Machine.rd32 s).1) (Machine.rd32 s).2).strm ∧
    (latchFecW1 (FecW1.ofWord (Machine.rd32 s).1) (Machine.rd32 s).2).fec =
      { s.fec with e := (closedFecHeader buf).e, ptRecovery := (closedFecHeader buf).ptRecovery,
                   mask := (closedFecHeader buf).mask } := by
  refine ⟨h.rd32, ?_⟩
  rw [h.rd32_value hlen, fecW1_ofWord, latchFecW1, State.setFec_fec, rd32_fec]

/-- Payload offsets 8 to 11. -/
theorem Asked.fecTsrec {buf : List Byte} {s : State} (h : Asked buf 8 s.strm) (hlen : 12 ≤ buf.length) :
    Asked buf 12 (latchFecTsrec (Machine.rd32 s).1 (Machine.rd32 s).2).strm ∧
    (latchFecTsrec (Machine.rd32 s).1 (Machine.rd32 s).2).fec =
      { s.fec with tsRecovery := (closedFecHeader buf).tsRecovery } := by
  refine ⟨h.rd32, ?_⟩
  rw [h.rd32_value hlen, latchFecTsrec, State.setFec_fec, rd32_fec]
  rfl

/-- Payload offsets 12 to 15. -/
theorem Asked.fecW2 {buf : List Byte} {s : State} (h : Asked buf 12 s.strm) (hlen : 16 ≤ buf.length) :
    (latchFecW2 (FecW2.ofWord (Machine.rd32 s).1) (Machine.rd32 s).2).fec =
      { s.fec with x := (closedFecHeader buf).x, d := (closedFecHeader buf).d, type := (closedFecHeader buf).type,
                   index := (closedFecHeader buf).index, offset := (closedFecHeader buf).offset,
                   na := (closedFecHeader buf).na, snBaseExt := (closedFecHeader buf).snBaseExt } := by
  rw [h.rd32_value hlen, fecW2_ofWord, latchFecW2, State.setFec_fec, rd32_fec]

theorem fecWords_fec {buf : List Byte} {s : State} (h : Asked buf 0 s.strm) (hlen : 16 ≤ buf.length) :
    (fecWords s).fec = closedFecHeader buf := by
  obtain ⟨a1, f1⟩ := h.fecBaseLen (by omega)
  unfold fecWords
  dsimp only
  generalize latchFecBaseLen (FecBaseLen.ofWord (rdPair s).1) (rdPair s).2 = s1 at a1 f1 ⊢
  obtain ⟨a2, f2⟩ := a1.fecW1 (by omega)
  generalize latchFecW1 (FecW1.ofWord (rd32 s1).1) (rd32 s1).2 = s2 at a2 f2 ⊢
  obtain ⟨a3, f3⟩ := a2.fecTsrec (by omega)
  generalize latchFecTsrec (rd32 s2).1 (rd32 s2).2 = s3 at a3 f3 ⊢
  rw [a3.fecW2 hlen, f3, f2, f1]

theorem fecDecode_of_short {payload : List Byte} (h : payload.length < 16) (s : State) :
    fecDecode payload s = .raised .truncated s := if_pos h

theorem fecDecode_of_long {payload : List Byte} (h : 16 ≤ payload.length) (s : State) :
    ∃ t, fecDecode payload s = .done t ∧ t.fec = closedFecHeader payload ∧ DecodeWrites s t :=
  ⟨_, if_neg (Nat.not_lt.2 h), fecWords_fec (asked_openStream payload s) h,
    (DecodeWrites.openStream payload s).trans (fecWords_writes _)⟩

/-! ### The RTP packet (R117) -/

/-- What a decode answers: the record that stands in the registers, or the reason. -/
def Decoded.result : Decoded → Except Reason Packet
  | .done s => .ok s.pkt.packet
  | .raised r _ => .error r

/-- The decode goes on, unless it has stopped. -/
def Decoded.andThen (d : Decoded) (f : State → Decoded) : Decoded :=
  match d with
  | .done s => f s
  | .raised r s => .raised r s

/-- R110: fixed header, CSRC list, extension, payload. -/
theorem rtpDecode_eq (s : State) :
    rtpDecode s =
      (rtpExtension (rtpCsrcList (rtpFixedHeader s).pkt.cc.toNat 0 (rtpFixedHeader s))).andThen rtpPayload := by
  unfold rtpDecode Decoded.andThen
  dsimp only
  cases rtpExtension (rtpCsrcList (rtpFixedHeader s).pkt.cc.toNat 0 (rtpFixedHeader s)) <;> rfl

/-! #### A reader that has run off the end: `Truncated` at the latest at the payload (R114) -/

theorem RanOff.asked {x : Stream} (h : RanOff x) : Asked [] 1 x := .inr ⟨Nat.one_pos, h⟩

theorem RanOff.rdbytes {s : State} (h : RanOff s.strm) (n : Nat) : RanOff (rdbytes n s).2.strm :=
  (h.asked.rdbytes n).ranOff (Nat.succ_le_of_lt (by simp))

theorem RanOff.rdPair {s : State} (h : RanOff s.strm) : RanOff (rdPair s).2.strm :=
  h.asked.rdPair.ranOff (by simp)

theorem rtpPayload_ranOff {s : State} (h : RanOff s.strm) : (rtpPayload s).result = .error .truncated := by
  have hok : valid (rdbytes (remaining s) s).2 = false := (h.rdbytes _).1
  simp [rtpPayload, hok, Decoded.result]

theorem latchRtpExt_ranOff (f : RtpExt) {s : State} (h : RanOff s.strm) :
    ((latchRtpExt f s).andThen rtpPayload).result = .error .truncated := by
  unfold latchRtpExt
  split
  · rfl
  · exact rtpPayload_ranOff (s := (rdbytes f.length.toNat s).2.setPkt _) (h.rdbytes _)

theorem rtpExtension_ranOff {s : State} (h : RanOff s.strm) :
    ((rtpExtension s).andThen rtpPayload).result = .error .truncated := by
  unfold rtpExtension
  split
  · exact latchRtpExt_ranOff _ h.rdPair
  · exact rtpPayload_ranOff (s := clearRtpExt s) h

/-! #### The fixed header and the CSRC list (R111, R112) -/

/-- Offsets 0 to 3. -/
theorem Asked.rtpW0Seq {buf : List Byte} {s : State} (h : Asked buf 0 s.strm) :
    Asked buf 4 (latchRtpW0Seq (RtpW0Seq.ofWord (Machine.rdPair s).1) (Machine.rdPair s).2).strm ∧
    (4 ≤ buf.length → (latchRtpW0Seq (RtpW0Seq.ofWord (Machine.rdPair s).1) (Machine.rdPair s).2).pkt =
      { s.pkt with version := (closedPacket buf).version, padding := headPad buf, extension := headExt buf,
                   cc := BitVec.ofNat 4 (headCc buf), marker := (closedPacket buf).marker,
                   pt := (closedPacket buf).pt, seq := (closedPacket buf).seq }) := by
  refine ⟨h.rdPair, fun hlen => ?_⟩
  rw [h.rdPair_value hlen, rtpW0Seq_ofWord, latchRtpW0Seq, State.setPkt_pkt, rdPair_pkt]

/-- Offsets 4 to 7. -/
theorem Asked.rtpTs {buf : List Byte} {s : State} (h : Asked buf 4 s.strm) :
    Asked buf 8 (latchRtpTs (Machine.rd32 s).1 (Machine.rd32 s).2).strm ∧
    (8 ≤ buf.length → (latchRtpTs (Machine.rd32 s).1 (Machine.rd32 s).2).pkt =
      { s.pkt with ts := (closedPacket buf).ts }) := by
  refine ⟨h.rd32, fun hlen => ?_⟩
  rw [h.rd32_value hlen, latchRtpTs, State.setPkt_pkt, rd32_pkt]
  rfl

/-- Offsets 8 to 11. -/
theorem Asked.rtpSsrc {buf : List Byte} {s : State} (h : Asked buf 8 s.strm) :
    Asked buf 12 (latchRtpSsrc (Machine.rd32 s).1 (Machine.rd32 s).2).strm ∧
    (12 ≤ buf.length → (latchRtpSsrc (Machine.rd32 s).1 (Machine.rd32 s).2).pkt =
      { s.pkt with ssrc := (closedPacket buf).ssrc }) := by
  refine ⟨h.rd32, fun hlen => ?_⟩
  rw [h.rd32_value hlen, latchRtpSsrc, State.setPkt_pkt, rd32_pkt]
  rfl

/-- The registers after the fixed header, by the bytes of the buffer. -/
def fixedRegs (buf : List Byte) (r : PktRegs) : PktRegs :=
  { r with version := (closedPacket buf).version, padding := headPad buf, extension := headExt buf,
           cc := BitVec.ofNat 4 (headCc buf), marker := (closedPacket buf).marker, pt := (closedPacket buf).pt,
           seq := (closedPacket buf).seq, ts := (closedPacket buf).ts, ssrc := (closedPacket buf).ssrc }

/-- The fixed header reads twelve bytes, and writes its fields where they are there. -/
theorem Asked.rtpFixedHeader {buf : List Byte} {s : State} (h : Asked buf 0 s.strm) :
    Asked buf 12 (rtpFixedHeader s).strm ∧ (12 ≤ buf.length → (rtpFixedHeader s).pkt = fixedRegs buf s.pkt) := by
  obtain ⟨a1, p1⟩ := h.rtpW0Seq
  unfold Machine.rtpFixedHeader
  dsimp only
  generalize latchRtpW0Seq (RtpW0Seq.ofWord (Machine.rdPair s).1) (Machine.rdPair s).2 = s1 at a1 p1 ⊢
  obtain ⟨a2, p2⟩ := a1.rtpTs
  generalize latchRtpTs (Machine.rd32 s1).1 (Machine.rd32 s1).2 = s2 at a2 p2 ⊢
  obtain ⟨a3, p3⟩ := a2.rtpSsrc
  refine ⟨a3, fun hlen => ?_⟩
  rw [p3 hlen, p2 (by omega), p1 (by omega), fixedRegs]

/-- The CSRC list reads four bytes for each identifier. -/
theorem Asked.rtpCsrcList {buf : List Byte} (n i : Nat) {m : Nat} {s : State} (h : Asked buf m s.strm) :
    Asked buf (m + 4 * n) (rtpCsrcList n i s).strm := by
  induction n generalizing m i s with
  | zero => exact h
  | succ n ih =>
    rw [Nat.mul_succ, Nat.add_comm (4 * n), ← Nat.add_assoc]
    exact ih (i + 1) (s := latchRtpCsrc i (Machine.rd32 s).1 (Machine.rd32 s).2) h.rd32

/-- The CSRC list writes the CSRC file only. -/
theorem rtpCsrcList_pkt (n i : Nat) (s : State) :
    (rtpCsrcList n i s).pkt = { s.pkt with csrc := (rtpCsrcList n i s).pkt.csrc } := by
  induction n generalizing i s with
  | zero => rfl
  | succ n ih => rw [rtpCsrcList, ih, latchRtpCsrc, State.setPkt_pkt, rd32_pkt]

/-- Register `j` of the file after `n` identifiers from register `i` on. -/
theorem Asked.rtpCsrcList_csrc {buf : List Byte} {n i m : Nat} {s : State} (h : Asked buf m s.strm)
    (hlen : m + 4 * n ≤ buf.length) {j : Nat} (hj : j < 15) :
    (Machine.rtpCsrcList n i s).pkt.csrc[j] =
      if i ≤ j ∧ j < i + n then BitVec.ofNat 32 (value32 buf (m + 4 * (j - i))) else s.pkt.csrc[j] := by
  induction n generalizing m i s with
  | zero =>
    rw [if_neg (by omega)]
    rfl
  | succ n ih =>
    have hnext : Asked buf (m + 4) (latchRtpCsrc i (Machine.rd32 s).1 (Machine.rd32 s).2).strm := h.rd32
    rw [Machine.rtpCsrcList, ih hnext (by omega)]
    simp only [latchRtpCsrc, State.setPkt_pkt, rd32_pkt, Vector.getElem_setIfInBounds,
      h.rd32_value (show m + 4 ≤ buf.length by omega)]
    by_cases hij : i = j
    · subst hij
      rw [if_neg (by omega), if_pos rfl, if_pos (by omega), Nat.sub_self]
      rfl
    · rw [if_neg hij]
      by_cases hin : i + 1 ≤ j ∧ j < i + 1 + n
      · rw [if_pos hin, if_pos (by omega)]
        congr 2
        omega
      · rw [if_neg hin, if_neg (by omega)]

/-! #### The extension and the payload (R113 to R115) -/

theorem headCc_lt (buf : List Byte) : headCc buf < 16 := Nat.mod_lt _ (by decide)

theorem cc_toNat (buf : List Byte) : (BitVec.ofNat 4 (headCc buf)).toNat = headCc buf :=
  Nat.mod_eq_of_lt (headCc_lt buf)

theorem extLength_lt (buf : List Byte) : extLength buf < 2 ^ 16 := value16_lt _ _

/-- The extension does not fit into the buffer (R117). -/
def extTruncated (buf : List Byte) : Prop :=
  headExt buf = true ∧ (buf.length < headEnd buf + 4 ∨ extLength buf > buf.length - headEnd buf - 4)

theorem isTruncated_iff (buf : List Byte) :
    isTruncated buf = true ↔ buf.length < 12 ∨ buf.length < headEnd buf ∨ extTruncated buf := by
  simp [isTruncated, extTruncated, or_assoc]

/-- An extension that does not fit: at once, or at the payload's validity check. -/
theorem Asked.rtpExtension_truncated {buf : List Byte} {s : State} (h : Asked buf (headEnd buf) s.strm)
    (hext : s.pkt.extension = headExt buf) (ht : extTruncated buf) :
    ((rtpExtension s).andThen rtpPayload).result = .error .truncated := by
  obtain ⟨hset, hshort⟩ := ht
  rw [rtpExtension, if_pos (hext.trans hset)]
  by_cases hwords : buf.length < headEnd buf + 4
  · exact latchRtpExt_ranOff _ (h.rdPair.ranOff hwords)
  · have hx := h.rdPair.inside (Nat.le_of_not_lt hwords)
    have hlong : extLength buf > buf.length - (headEnd buf + 4) := by omega
    dsimp only
    rw [h.rdPair_value (by omega), rtpExt_ofWord, latchRtpExt, if_pos]
    · rfl
    · rw [remaining, hx, BitVec.toNat_ofNat, Nat.mod_eq_of_lt (value16_lt _ _)]
      exact hlong

/-- Otherwise the reader stands at the payload, and the extension is the closed form's. -/
theorem Asked.rtpExtension_done {buf : List Byte} {s : State} (h : Asked buf (headEnd buf) s.strm)
    (hlen : headEnd buf ≤ buf.length) (hext : s.pkt.extension = headExt buf) (ht : ¬ extTruncated buf) :
    ∃ t, rtpExtension s = .done t ∧ Asked buf (payloadStart buf) t.strm ∧ payloadStart buf ≤ buf.length ∧
      t.pkt = { s.pkt with ext := (closedPacket buf).ext } := by
  cases hset : headExt buf with
  | false =>
    have hstart : payloadStart buf = headEnd buf := by simp [payloadStart, hset]
    refine ⟨clearRtpExt s, ?_, hstart ▸ h, by omega, ?_⟩
    · rw [rtpExtension, if_neg (by simp [hext, hset])]
    · simp [clearRtpExt, closedPacket, hset]
  | true =>
    have hstart : payloadStart buf = headEnd buf + 4 + extLength buf := by simp [payloadStart, hset, Nat.add_assoc]
    have hfits : headEnd buf + 4 + extLength buf ≤ buf.length := by
      simp only [extTruncated, hset, true_and, not_or] at ht
      omega
    have hx := h.rdPair.inside (by omega)
    have hL : (BitVec.ofNat 16 (extLength buf)).toNat = extLength buf := Nat.mod_eq_of_lt (extLength_lt buf)
    have hval := h.rdPair.rdbytes_value hfits
    have hread := h.rdPair.rdbytes (extLength buf)
    rw [rtpExtension, if_pos (hext.trans hset)]
    dsimp only
    rw [h.rdPair_value (by omega), rtpExt_ofWord, ← extLength, latchRtpExt, if_neg, hL]
    · refine ⟨_, rfl, hstart ▸ hread, by omega, ?_⟩
      simp [closedPacket, hset, hval]
    · rw [remaining, hx, hL]
      dsimp only
      omega

/-- The padding trim of the raw payload, which is not empty unless the payload starts at the end. -/
theorem paddingTrim_raw {buf : List Byte} (hlen : payloadStart buf ≤ buf.length) :
    paddingTrim (headPad buf) (buf.drop (payloadStart buf)) =
      if isMalformed buf then .error .malformed else .ok (closedPacket buf).payload := by
  cases hpad : headPad buf with
  | false => simp [paddingTrim, isMalformed, closedPacket, rawLength, trimCount, hpad]
  | true =>
    have htrim : trimCount buf = (byteAt buf (buf.length - 1)).toNat := by simp [trimCount, hpad]
    rcases Nat.eq_or_lt_of_le hlen with heq | hlt
    · simp [paddingTrim, isMalformed, rawLength, hpad, heq]
    · have hlast : (buf.drop (payloadStart buf)).getLast? = some (byteAt buf (buf.length - 1)) := by
        rw [List.getLast?_drop, if_neg (by omega), List.getLast?_eq_getElem?, byteAt, List.getD]
        simp [show buf.length - 1 < buf.length by omega]
      have hmal : isMalformed buf = true ↔ trimCount buf > rawLength buf := by
        simp [isMalformed, hpad, rawLength]
        omega
      simp only [paddingTrim, if_true, hlast, List.length_drop, ← htrim, hmal, rawLength]
      split
      · rfl
      · simp [closedPacket, rawLength]

/-- The payload step on a reader that has stayed inside. -/
theorem Asked.rtpPayload_result {buf : List Byte} {s : State} (h : Asked buf (payloadStart buf) s.strm)
    (hlen : payloadStart buf ≤ buf.length) (hpad : s.pkt.padding = headPad buf) :
    (rtpPayload s).result =
      if isMalformed buf then .error .malformed
      else .ok { s.pkt with payload := (closedPacket buf).payload, fec := none }.packet := by
  have hx := h.inside hlen
  have hrem : remaining s = buf.length - payloadStart buf := by rw [remaining, hx]
  have hval := h.rdbytes_value (k := remaining s) (by omega)
  have hvalid : valid (Machine.rdbytes (remaining s) s).2 = true := by
    rw [valid, (h.rdbytes (remaining s)).inside (by omega)]
  rw [rtpPayload]
  dsimp only
  rw [if_pos hvalid, hval, hrem, ← List.length_drop, List.take_length, rdbytes_pkt, hpad, paddingTrim_raw hlen]
  by_cases hmal : isMalformed buf = true
  · simp [hmal, Decoded.result]
  · simp [hmal, Decoded.result]

/-! #### The whole decode -/

/-- The identifiers of R117 stand in the first registers of the file after the CSRC list. -/
theorem Asked.rtpCsrcList_take {buf : List Byte} {s : State} (h : Asked buf 12 s.strm)
    (hlen : headEnd buf ≤ buf.length) :
    (Machine.rtpCsrcList (headCc buf) 0 s).pkt.csrc.toList.take (headCc buf) = (closedPacket buf).csrc := by
  have hcc := headCc_lt buf
  apply List.ext_getElem
  · simp [closedPacket]
    omega
  · intro j hj _
    have hj : j < headCc buf := by simp at hj; omega
    rw [List.getElem_take, Vector.getElem_toList, h.rtpCsrcList_csrc hlen (by omega), if_pos (by omega)]
    simp [closedPacket]

/-- The registers a decode of `buf` ends with hold the closed form's packet. -/
theorem packet_of_regs {buf : List Byte} {r : PktRegs} {csrc : Vector U32 15}
    (hcsrc : csrc.toList.take (headCc buf) = (closedPacket buf).csrc) :
    { fixedRegs buf r with csrc := csrc, ext := (closedPacket buf).ext, payload := (closedPacket buf).payload,
                           fec := none }.packet = closedPacket buf := by
  simp only [PktRegs.packet, fixedRegs, cc_toNat, hcsrc]
  rfl

/-- R117: the stream form of the decode answers as the closed form, whatever the state and the draws are. -/
theorem rtpDecode_result (buf : List Byte) (s : State) : (rtpDecode (openStream buf s)).result = closedRtp buf := by
  obtain ⟨ahead, hregs⟩ := (asked_openStream buf s).rtpFixedHeader
  rw [rtpDecode_eq]
  generalize rtpFixedHeader (openStream buf s) = s1 at ahead hregs ⊢
  have alist := ahead.rtpCsrcList s1.pkt.cc.toNat 0
  have hlist := rtpCsrcList_pkt s1.pkt.cc.toNat 0 s1
  by_cases h12 : buf.length < 12
  · rw [rtpExtension_ranOff (alist.ranOff (by omega)), closedRtp, if_pos ((isTruncated_iff buf).2 (.inl h12))]
  have hregs := hregs (Nat.le_of_not_lt h12)
  have hcc : s1.pkt.cc.toNat = headCc buf := by
    rw [hregs]
    exact cc_toNat buf
  rw [hcc, ← headEnd] at alist
  rw [hcc] at hlist ⊢
  by_cases hend : buf.length < headEnd buf
  · rw [rtpExtension_ranOff (alist.ranOff hend), closedRtp, if_pos ((isTruncated_iff buf).2 (.inr (.inl hend)))]
  have hcsrc := ahead.rtpCsrcList_take (Nat.le_of_not_lt hend)
  generalize rtpCsrcList (headCc buf) 0 s1 = s2 at alist hlist hcsrc ⊢
  rw [hregs] at hlist
  have hext : s2.pkt.extension = headExt buf := by rw [hlist]; rfl
  by_cases ht : extTruncated buf
  · rw [alist.rtpExtension_truncated hext ht, closedRtp, if_pos ((isTruncated_iff buf).2 (.inr (.inr ht)))]
  obtain ⟨s3, hs3, apay, hfits, hs3pkt⟩ := alist.rtpExtension_done (Nat.le_of_not_lt hend) hext ht
  have hpad : s3.pkt.padding = headPad buf := by rw [hs3pkt, hlist]; rfl
  have hwhole : ¬ isTruncated buf = true := by
    rw [isTruncated_iff]
    tauto
  rw [hs3, closedRtp, if_neg hwhole]
  show (rtpPayload s3).result = _
  rw [apay.rtpPayload_result hfits hpad, hs3pkt, hlist]
  split
  · rfl
  · exact congrArg _ (packet_of_regs (r := s.pkt) hcsrc)

end Sys2Proof.Machine

/-! PROOFS. What a command can see of the state it starts from: the persistent state and the surroundings only (R20). -/

namespace Sys2Proof.Machine

/-! ### The two ways a decode of a buffer ends -/

theorem rtpDecode_openStream_writes (buf : List Byte) (s : State) :
    DecodeWrites s (rtpDecode (openStream buf s)).state :=
  (DecodeWrites.openStream buf s).trans (rtpDecode_writes (openStream buf s))

theorem rtpDecode_of_error {buf : List Byte} {r : Reason} (h : closedRtp buf = .error r) (s : State) :
    ∃ t, rtpDecode (openStream buf s) = .raised r t ∧ DecodeWrites s t := by
  have hresult := rtpDecode_result buf s
  have hwrites := rtpDecode_openStream_writes buf s
  rw [h] at hresult
  cases hd : rtpDecode (openStream buf s) with
  | done t => simp [hd, Decoded.result] at hresult
  | raised r' t =>
    rw [hd] at hresult hwrites
    obtain rfl : r' = r := by simpa [Decoded.result] using hresult
    exact ⟨t, rfl, hwrites⟩

theorem rtpDecode_of_ok {buf : List Byte} {p : Packet} (h : closedRtp buf = .ok p) (s : State) :
    ∃ t, rtpDecode (openStream buf s) = .done t ∧ t.pkt.packet = p ∧ DecodeWrites s t := by
  have hresult := rtpDecode_result buf s
  have hwrites := rtpDecode_openStream_writes buf s
  rw [h] at hresult
  cases hd : rtpDecode (openStream buf s) with
  | raised r t => simp [hd, Decoded.result] at hresult
  | done t =>
    rw [hd] at hresult hwrites
    exact ⟨t, rfl, by simpa [Decoded.result] using hresult, hwrites⟩

/-! ### Commands as a decode and what follows it -/

/-- A command after its decode: a raised reason rejects it (R214), otherwise `k` ends it. -/
def Decoded.thenCommand (d : Decoded) (k : State → State) : State :=
  match d with
  | .done s => k s
  | .raised r s => reject r s

theorem decRtp_eq (buf : List Byte) (s : State) :
    decRtp buf s = (rtpDecode (openStream buf s)).thenCommand (fun t => finish (.ok (.packet t.pkt.packet)) t) := by
  unfold decRtp
  cases rtpDecode (openStream buf s) <;> rfl

theorem decFec_eq (buf : List Byte) (s : State) :
    decFec buf s = (fecDecode buf s).thenCommand (fun t => finish (.ok (.fecHeader t.fec)) t) := by
  unfold decFec
  cases fecDecode buf s <;> rfl

theorem enqData_eq (buf : List Byte) (s : State) :
    enqData buf s = (rtpDecode (openStream buf s)).thenCommand (enqDataDecoded buf.length) := by
  unfold enqData
  cases rtpDecode (openStream buf s) <;> rfl

theorem enqFec_eq (buf : List Byte) (s : State) :
    enqFec buf s = (rtpDecode (openStream buf s)).thenCommand (enqFecDecoded buf.length) := by
  unfold enqFec
  cases rtpDecode (openStream buf s) <;> rfl

theorem enqFecDecoded_eq (len : Nat) (s : State) :
    enqFecDecoded len s =
      if !plain s.pkt.packet || s.pkt.packet.pt != Config.fecPt then reject .unsupportedProfile s
      else if s.fecCount ≥ s.params.fecMax then reject .capacityExceeded s
      else (fecDecode s.pkt.packet.payload s).thenCommand (enqFecParsed len s.pkt.packet) := by
  unfold enqFecDecoded
  dsimp only
  cases fecDecode s.pkt.packet.payload s <;> rfl

/-! ### What a command can see of a state -/

/-- The states agree in all that a command reads of one: the persistent state and the surroundings. The transient
registers, the phase, the last response and the count of draws may differ. -/
def AgreeForCommands (s t : State) : Prop := SamePersistent s t ∧ SameSurroundings s t

theorem AgreeForCommands.refl (s : State) : AgreeForCommands s s := ⟨⟨rfl, rfl, rfl, rfl, rfl⟩, rfl, rfl⟩

/-- Decodes on either side keep the agreement. -/
theorem AgreeForCommands.decode {s t s' t' : State} (h : AgreeForCommands s t) (hs : DecodeWrites s s')
    (ht : DecodeWrites t t') : AgreeForCommands s' t' := by
  unfold DecodeWrites at hs ht
  rw [hs, ht]
  exact h

/-- The end of a command forgets everything else. -/
theorem AgreeForCommands.finish {s t : State} (h : AgreeForCommands s t) (o : CmdOutcome) :
    (finish o t).setDraws 0 = (finish o s).setDraws 0 := by
  obtain ⟨⟨hdata, hdataCount, hfecl, hfecCount, hcursor⟩, hparams, hpending⟩ := h
  simp only [Machine.finish, driveStatus, discardTransients, State.setDraws, State.setPhase, State.setValue,
    State.setFec, State.setPkt, State.setStrm, State.setResponse, hdata, hdataCount, hfecl, hfecCount, hcursor, hparams, hpending]

theorem AgreeForCommands.setData {s t : State} (h : AgreeForCommands s t) (l : List Packet) (n : Nat) :
    AgreeForCommands (s.setData l n) (t.setData l n) := by
  obtain ⟨⟨_, _, hfecl, hfecCount, hcursor⟩, hsurroundings⟩ := h
  exact ⟨⟨rfl, rfl, hfecl, hfecCount, hcursor⟩, hsurroundings⟩

theorem AgreeForCommands.setFecl {s t : State} (h : AgreeForCommands s t) (l : List Packet) (n : Nat) :
    AgreeForCommands (s.setFecl l n) (t.setFecl l n) := by
  obtain ⟨⟨hdata, hdataCount, _, _, hcursor⟩, hsurroundings⟩ := h
  exact ⟨⟨hdata, hdataCount, rfl, rfl, hcursor⟩, hsurroundings⟩

theorem AgreeForCommands.setCursor {s t : State} (h : AgreeForCommands s t) (c : Option SeqNum) :
    AgreeForCommands (s.setCursor c) (t.setCursor c) := by
  obtain ⟨⟨hdata, hdataCount, hfecl, hfecCount, _⟩, hsurroundings⟩ := h
  exact ⟨⟨hdata, hdataCount, hfecl, hfecCount, rfl⟩, hsurroundings⟩

theorem AgreeForCommands.flush {s t : State} (h : AgreeForCommands s t) (c : SeqNum) :
    AgreeForCommands (flush c s) (flush c t) := by
  have ⟨⟨hdata, hdataCount, hfecl, hfecCount, hcursor⟩, hparams, hpending⟩ := h
  simp only [Machine.flush, flushFec, flushData, hdata, hdataCount, hfecl, hfecCount, hparams, State.setData_fecl,
    State.setData_fecCount]
  exact (h.setData _ _).setFecl _ _

/-! ### Every command ends alike on states that agree -/

theorem forgetDraws_next {u v : State} (h : v.setDraws 0 = u.setDraws 0) :
    forgetDraws (.next v) = forgetDraws (.next u) := congrArg Host.Outcome.next h

theorem AgreeForCommands.deliver {s t : State} (h : AgreeForCommands s t) (e : Packet) :
    (deliver e t).setDraws 0 = (deliver e s).setDraws 0 := ((h.setCursor _).flush _).finish _

theorem AgreeForCommands.readAfter {s t : State} (h : AgreeForCommands s t) (c : SeqNum) (j : Nat) :
    (readAfter c j t).setDraws 0 = (readAfter c j s).setDraws 0 := by
  have hdata := h.1.1
  unfold Machine.readAfter
  rw [hdata]
  split
  · exact h.finish _
  · split
    · exact h.finish _
    · exact h.deliver _

theorem AgreeForCommands.execRead {s t : State} (h : AgreeForCommands s t) :
    forgetDraws (execRead t) = forgetDraws (execRead s) := by
  have ⟨⟨hdata, _, _, _, hcursor⟩, _⟩ := h
  unfold Machine.execRead
  rw [hdata, hcursor]
  split
  · exact forgetDraws_next (h.finish _)
  · split
    · exact forgetDraws_next (h.deliver _)
    · split
      · rfl
      · exact forgetDraws_next (h.readAfter _ _)

/-- What comes after the RTP decode ends alike, if it ends alike on the same packet. -/
theorem AgreeForCommands.afterRtp {s t : State} (h : AgreeForCommands s t) (buf : List Byte) {k : State → State}
    (hk : ∀ {s' t' : State}, AgreeForCommands s' t' → t'.pkt.packet = s'.pkt.packet →
      (k t').setDraws 0 = (k s').setDraws 0) :
    ((rtpDecode (openStream buf t)).thenCommand k).setDraws 0 =
      ((rtpDecode (openStream buf s)).thenCommand k).setDraws 0 := by
  cases hc : closedRtp buf with
  | error r =>
    obtain ⟨s', hs, ws⟩ := rtpDecode_of_error hc s
    obtain ⟨t', ht, wt⟩ := rtpDecode_of_error hc t
    rw [hs, ht]
    exact (h.decode ws wt).finish _
  | ok p =>
    obtain ⟨s', hs, ps, ws⟩ := rtpDecode_of_ok hc s
    obtain ⟨t', ht, pt, wt⟩ := rtpDecode_of_ok hc t
    rw [hs, ht]
    exact hk (h.decode ws wt) (pt.trans ps.symm)

/-- What comes after the FEC decode ends alike, if it ends alike on the same header. -/
theorem AgreeForCommands.afterFec {s t : State} (h : AgreeForCommands s t) (payload : List Byte) {k : State → State}
    (hk : ∀ {s' t' : State}, AgreeForCommands s' t' → t'.fec = s'.fec → (k t').setDraws 0 = (k s').setDraws 0) :
    ((fecDecode payload t).thenCommand k).setDraws 0 = ((fecDecode payload s).thenCommand k).setDraws 0 := by
  obtain hlen | hlen := Nat.lt_or_ge payload.length 16
  · rw [fecDecode_of_short hlen, fecDecode_of_short hlen]
    exact h.finish _
  · obtain ⟨s', hs, fs, ws⟩ := fecDecode_of_long hlen s
    obtain ⟨t', ht, ft, wt⟩ := fecDecode_of_long hlen t
    rw [hs, ht]
    exact hk (h.decode ws wt) (ft.trans fs.symm)

theorem AgreeForCommands.enqDataDecoded {s t : State} (h : AgreeForCommands s t) (len : Nat)
    (hpkt : t.pkt.packet = s.pkt.packet) :
    (enqDataDecoded len t).setDraws 0 = (enqDataDecoded len s).setDraws 0 := by
  have ⟨⟨hdata, hdataCount, _⟩, hparams, _⟩ := h
  unfold Machine.enqDataDecoded
  rw [hpkt, hdata, hdataCount, hparams]
  dsimp only
  split
  · exact h.finish _
  · split
    · exact h.finish _
    · split
      · exact h.finish _
      · exact h.finish _
      · exact (h.setData _ _).finish _

theorem AgreeForCommands.enqFecParsed {s t : State} (h : AgreeForCommands s t) (len : Nat) (p : Packet)
    (hfec : t.fec = s.fec) : (enqFecParsed len p t).setDraws 0 = (enqFecParsed len p s).setDraws 0 := by
  have ⟨⟨_, _, hfecl, hfecCount, hcursor⟩, hparams, _⟩ := h
  unfold Machine.enqFecParsed
  rw [hfec, hfecl, hfecCount, hcursor, hparams]
  dsimp only
  split
  · exact h.finish _
  · split
    · exact h.finish _
    · split
      · exact h.finish _
      · exact h.finish _
      · exact (h.setFecl _ _).finish _

theorem AgreeForCommands.enqFecDecoded {s t : State} (h : AgreeForCommands s t) (len : Nat)
    (hpkt : t.pkt.packet = s.pkt.packet) :
    (enqFecDecoded len t).setDraws 0 = (enqFecDecoded len s).setDraws 0 := by
  have ⟨⟨_, _, _, hfecCount, _⟩, hparams, _⟩ := h
  rw [enqFecDecoded_eq, enqFecDecoded_eq, hpkt, hfecCount, hparams]
  split
  · exact h.finish _
  · split
    · exact h.finish _
    · exact h.afterFec _ (fun h' hfec => h'.enqFecParsed _ _ hfec)

/-- A command with a buffer, which both states refuse or both run. -/
theorem AgreeForCommands.withBuffer {s t : State} (h : AgreeForCommands s t) (len : Nat) {u v : State}
    (huv : v.setDraws 0 = u.setDraws 0) :
    forgetDraws (if len ≤ t.params.pktMax then .next v else .refused (.bufferTooLong len)) =
      forgetDraws (if len ≤ s.params.pktMax then .next u else .refused (.bufferTooLong len)) := by
  have hparams := h.2.1
  rw [hparams]
  split
  · exact forgetDraws_next huv
  · rfl

/-- No command sees more of the state than the persistent state and the surroundings (R20, R54, R7). -/
theorem AgreeForCommands.exec {s t : State} (h : AgreeForCommands s t) {i : Instr} (hport : i.slot = .port) :
    forgetDraws (exec i t) = forgetDraws (exec i s) := by
  cases i with
  | read => exact h.execRead
  | enqData buf =>
    refine h.withBuffer _ ?_
    rw [enqData_eq, enqData_eq]
    exact h.afterRtp buf (fun h' hpkt => h'.enqDataDecoded _ hpkt)
  | enqFec buf =>
    refine h.withBuffer _ ?_
    rw [enqFec_eq, enqFec_eq]
    exact h.afterRtp buf (fun h' hpkt => h'.enqFecDecoded _ hpkt)
  | decRtp buf =>
    refine h.withBuffer _ ?_
    rw [decRtp_eq, decRtp_eq]
    exact h.afterRtp buf (fun h' hpkt => by rw [hpkt]; exact h'.finish _)
  | decFec buf =>
    refine h.withBuffer _ ?_
    rw [decFec_eq, decFec_eq]
    exact h.afterFec buf (fun h' hfec => by rw [hfec]; exact h'.finish _)
  | seqdist a b => exact forgetDraws_next (h.finish _)
  | reserved3 | reserved7 => rfl
  | _ => cases hport

/-- Settles O45: a state with another count of draws agrees with the first in all that a command sees. -/
theorem drawsDecideNothing : Obligations.DrawsDecideNothing := by
  intro i s n hport
  have hagree : AgreeForCommands s (s.setDraws n) := AgreeForCommands.refl s
  exact hagree.exec hport

end Sys2Proof.Machine

/-! PROOFS. What a step can do to the stores, said once, and the invariant of the stores along every run (R31). -/

namespace Sys2Proof.Machine

/-! ### Where the scan inserts (R163) -/

/-- The scan passes over keys after `c` and stops behind the first that is before it, all of them within the distance. -/
theorem scanBack_insertAt {m : Nat} {c : SeqNum} {keys : List SeqNum} {pos : Nat}
    (h : scanBack m c keys = .insertAt pos) :
    ∃ passed older, keys = passed ++ older ∧ pos = older.length ∧ (∀ k ∈ passed, 0 < dist k c ∧ dist k c ≤ m) ∧
      (∀ k ∈ older.head?, dist k c < 0 ∧ -(m : Int) ≤ dist k c) := by
  induction keys with
  | nil =>
    obtain rfl : 0 = pos := by simpa [scanBack] using h
    exact ⟨[], [], rfl, rfl, by simp, by simp⟩
  | cons k older ih =>
    rw [scanBack] at h
    split at h
    · cases h
    · rename_i hwithin
      unfold absd at hwithin
      split at h
      · cases h
      · split at h
        · rename_i hbefore
          obtain rfl : older.length + 1 = pos := by simpa using h
          rw [if_pos hbefore] at hwithin
          exact ⟨[], k :: older, rfl, rfl, by simp, by simp; omega⟩
        · rename_i hne hafter
          rw [if_neg hafter] at hwithin
          obtain ⟨passed, rest, rfl, hpos, hpassed, hhead⟩ := ih h
          refine ⟨k :: passed, rest, rfl, hpos, ?_, hhead⟩
          rintro x (_ | ⟨_, hx⟩)
          · omega
          · exact hpassed x hx

/-- Inserting where the scan says keeps the gaps. -/
theorem StepsWithin.insertAt {m pos : Nat} {c : SeqNum} {keys : List SeqNum} (hm : m ≤ 32767)
    (hkeys : StepsWithin m keys) (h : scanBack m c keys.reverse = .insertAt pos) :
    StepsWithin m (insertAt keys pos c) := by
  obtain ⟨passed, older, hsplit, rfl, hpassed, hhead⟩ := scanBack_insertAt h
  obtain rfl : keys = older.reverse ++ passed.reverse := by
    rw [← List.reverse_append, ← hsplit, List.reverse_reverse]
  have hl : older.length = older.reverse.length := List.length_reverse.symm
  rw [Machine.insertAt, hl, List.take_left, List.drop_left]
  obtain ⟨hbefore, hafter, -⟩ := List.isChain_append.1 hkeys
  refine List.isChain_append.2 ⟨hbefore, List.isChain_cons.2 ⟨?_, hafter⟩, ?_⟩
  · intro k hk
    exact hpassed k (List.mem_reverse.1 (List.mem_of_mem_head? hk))
  · rintro k hk x hx
    obtain rfl : c = x := by simpa using hx
    rw [List.getLast?_reverse] at hk
    have := hhead k hk
    rw [dist_swap (a := k) (by omega)]
    omega

theorem StepsWithin.insert_scan {m : Fin 32768} {key : Packet → SeqNum} {l : List Packet} {p : Packet} {pos : Nat}
    (hl : StepsWithin m.val (l.map key)) (hscan : insertScan m.val key l (key p) = .insertAt pos) :
    StepsWithin m.val ((Machine.insertAt l pos p).map key) := by
  rw [map_insertAt]
  exact hl.insertAt (by omega) hscan

/-- An eviction at the front keeps the gaps. -/
theorem StepsWithin.dropWhile {m : Nat} {key : Packet → SeqNum} {l : List Packet} (hl : StepsWithin m (l.map key))
    (goes : Packet → Bool) : StepsWithin m ((l.dropWhile goes).map key) :=
  List.IsChain.suffix hl ((List.dropWhile_suffix goes).map key)

/-! ### What is stored (I7) -/

theorem plain_iff (p : Packet) :
    plain p = true ↔ p.padding = false ∧ p.extension = false ∧ p.marker = false ∧ p.cc = 0 := by
  simp [plain, and_assoc]

/-- A plain packet of the closed form has no CSRC list and no extension. -/
theorem storedPlain_closedPacket {buf : List Byte} (h : plain (closedPacket buf) = true) :
    StoredPlain (closedPacket buf) := by
  obtain ⟨hpad, hext, hmarker, hcc⟩ := (plain_iff _).1 h
  have hzero : headCc buf = 0 := by
    rw [← cc_toNat, show BitVec.ofNat 4 (headCc buf) = 0 from hcc]
    rfl
  have hnone : headExt buf = false := hext
  exact ⟨hpad, hext, hmarker, hcc, by simp [closedPacket, hzero], by simp [closedPacket, hnone]⟩

/-! ### What a step can do to the stores -/

/-- Everything a step can do to the persistent state: nothing, an insertion by either enqueue, a delivery with its
`FLUSH`, or reset. -/
inductive StoreChange (s t : State) : Prop where
  | same (h : SamePersistent s t)
  | enqData (p : Packet) (pos : Nat) (hplain : StoredPlain p) (hfec : p.fec = none)
      (hroom : s.dataCount < s.params.dataMax)
      (hscan : insertScan s.params.maxDistance.val (fun e => e.seq) s.data p.seq = .insertAt pos)
      (hdata : t.data = insertAt s.data pos p ∧ t.dataCount = s.dataCount + 1)
      (hfecl : t.fecl = s.fecl ∧ t.fecCount = s.fecCount) (hcursor : t.cursor = s.cursor)
  | enqFec (p : Packet) (pos : Nat) (hstored : StoredFec p) (hroom : s.fecCount < s.params.fecMax)
      (hscan : insertScan s.params.maxDistance.val fecKey s.fecl (fecKey p) = .insertAt pos)
      (hdata : t.data = s.data ∧ t.dataCount = s.dataCount)
      (hfecl : t.fecl = insertAt s.fecl pos p ∧ t.fecCount = s.fecCount + 1) (hcursor : t.cursor = s.cursor)
  | delivered (e : Packet) (he : e ∈ s.data)
      (hdata : t.data = (flush e.seq s).data ∧ t.dataCount = (flush e.seq s).dataCount)
      (hfecl : t.fecl = (flush e.seq s).fecl ∧ t.fecCount = (flush e.seq s).fecCount)
      (hcursor : t.cursor = some e.seq)
  | cleared (hdata : t.data = [] ∧ t.dataCount = 0) (hfecl : t.fecl = [] ∧ t.fecCount = 0) (hcursor : t.cursor = none)

/-- One of these, and the parameters kept. -/
def StoreStep (s t : State) : Prop := t.params = s.params ∧ StoreChange s t

theorem StoreStep.of_same {s t : State} (hparams : t.params = s.params) (h : SamePersistent s t) : StoreStep s t :=
  ⟨hparams, .same h⟩

theorem StoreStep.of_outside {s t : State} (h : SameOutsideDecode s t) : StoreStep s t := by
  obtain ⟨hsame, ⟨hparams, _⟩, _⟩ := h
  exact .of_same hparams hsame

/-- What a state with the same parameters and persistent state consists of. -/
theorem eq_with_stores {s s' : State} (hparams : s'.params = s.params) (h : SamePersistent s s') :
    s' = { s' with params := s.params, data := s.data, fecl := s.fecl, dataCount := s.dataCount,
                   fecCount := s.fecCount, cursor := s.cursor } := by
  obtain ⟨hdata, hdataCount, hfecl, hfecCount, hcursor⟩ := h
  rw [← hparams, ← hdata, ← hdataCount, ← hfecl, ← hfecCount, ← hcursor]

/-- What does not touch the stores before it makes no difference. -/
theorem StoreStep.after {s s' t : State} (hparams' : s'.params = s.params) (hs : SamePersistent s s')
    (h : StoreStep s' t) : StoreStep s t := by
  rw [eq_with_stores hparams' hs] at h
  obtain ⟨hparams, hchange⟩ := h
  refine ⟨hparams, ?_⟩
  cases hchange with
  | same h => exact .same h
  | enqData p pos hplain hfec hroom hscan hdata hfecl hcursor =>
    exact .enqData p pos hplain hfec hroom hscan hdata hfecl hcursor
  | enqFec p pos hstored hroom hscan hdata hfecl hcursor =>
    exact .enqFec p pos hstored hroom hscan hdata hfecl hcursor
  | delivered e he hdata hfecl hcursor => exact .delivered e he hdata hfecl hcursor
  | cleared hdata hfecl hcursor => exact .cleared hdata hfecl hcursor

theorem StoreStep.afterDecode {s s' t : State} (hs : DecodeWrites s s') (h : StoreStep s' t) : StoreStep s t := by
  obtain ⟨⟨hsame, ⟨hparams, _⟩, _⟩, _⟩ := hs.sameOutsideDecode
  exact h.after hparams hsame

theorem StoreStep.finish (o : CmdOutcome) (s : State) : StoreStep s (finish o s) :=
  .of_same (finish_params s o) (finish_answeredOnly s o).2

theorem StoreStep.deliver {e : Packet} {s : State} (he : e ∈ s.data) : StoreStep s (deliver e s) := by
  have ⟨_, _, hparams, _⟩ := deliver_answered e s
  refine ⟨hparams, .delivered e he ⟨deliver_data e s, ?_⟩ ⟨deliver_fecl e s, ?_⟩ (deliver_cursor e s)⟩
  · rw [Machine.deliver, finish_dataCount]
    rfl
  · rw [Machine.deliver, finish_fecCount]
    rfl

theorem StoreStep.readAfter (c : SeqNum) (j : Nat) (s : State) : StoreStep s (readAfter c j s) := by
  unfold Machine.readAfter
  split
  · exact .finish _ _
  · rename_i e he
    split
    · exact .finish _ _
    · exact .deliver (List.mem_of_getElem? he)

theorem closedRtp_ok {buf : List Byte} {p : Packet} (h : closedRtp buf = .ok p) : p = closedPacket buf := by
  unfold closedRtp at h
  split at h
  · cases h
  · split at h
    · cases h
    · cases h
      rfl

/-- After the RTP decode a command works on the closed form's packet, or is rejected. -/
theorem StoreStep.afterRtp {buf : List Byte} {s : State} {k : State → State}
    (hk : ∀ t, t.pkt.packet = closedPacket buf → StoreStep t (k t)) :
    StoreStep s ((rtpDecode (openStream buf s)).thenCommand k) := by
  cases hc : closedRtp buf with
  | error r =>
    obtain ⟨t, ht, hwrites⟩ := rtpDecode_of_error hc s
    rw [ht]
    exact .afterDecode hwrites (.finish _ _)
  | ok p =>
    obtain ⟨t, ht, hpkt, hwrites⟩ := rtpDecode_of_ok hc s
    rw [ht]
    exact .afterDecode hwrites (hk t (hpkt.trans (closedRtp_ok hc)))

/-- After the FEC decode a command works on the header of its payload, or is rejected. -/
theorem StoreStep.afterFec {payload : List Byte} {s : State} {k : State → State}
    (hk : ∀ t, DecodeWrites s t → 16 ≤ payload.length → t.fec = closedFecHeader payload → StoreStep t (k t)) :
    StoreStep s ((fecDecode payload s).thenCommand k) := by
  obtain hlen | hlen := Nat.lt_or_ge payload.length 16
  · rw [fecDecode_of_short hlen]
    exact .finish _ _
  · obtain ⟨t, ht, hfec, hwrites⟩ := fecDecode_of_long hlen s
    rw [ht]
    exact .afterDecode hwrites (hk t hwrites hlen hfec)

theorem StoreStep.enqDataDecoded (len : Nat) {buf : List Byte} {s : State} (hpkt : s.pkt.packet = closedPacket buf) :
    StoreStep s (enqDataDecoded len s) := by
  unfold Machine.enqDataDecoded
  rw [hpkt]
  dsimp only
  split
  · exact .finish _ _
  · rename_i hplain
    have hplain : plain (closedPacket buf) = true := by simpa using hplain
    split
    · exact .finish _ _
    · rename_i hroom
      split
      · exact .finish _ _
      · exact .finish _ _
      · rename_i pos hscan
        refine ⟨finish_params _ _, .enqData (closedPacket buf) pos (storedPlain_closedPacket hplain) rfl
          (Nat.lt_of_not_le hroom) hscan ?_ ?_ (finish_cursor _ _)⟩
        · exact ⟨finish_data _ _, finish_dataCount _ _⟩
        · exact ⟨finish_fecl _ _, finish_fecCount _ _⟩

theorem StoreStep.enqFecParsed (len : Nat) {p : Packet} {s : State} (hplain : StoredPlain p) (hpt : p.pt = 96)
    (hlen : 16 ≤ p.payload.length) (hroom : s.fecCount < s.params.fecMax) (hfec : s.fec = closedFecHeader p.payload) :
    StoreStep s (enqFecParsed len p s) := by
  unfold Machine.enqFecParsed
  rw [hfec]
  dsimp only
  split
  · exact .finish _ _
  · rename_i hprofile
    split
    · exact .finish _ _
    · split
      · exact .finish _ _
      · exact .finish _ _
      · rename_i pos hscan
        refine ⟨finish_params _ _, .enqFec { p with fec := some (closedFecHeader p.payload) } pos
          ⟨hplain, hpt, hlen, rfl, by simpa using hprofile⟩ hroom hscan ?_ ?_ (finish_cursor _ _)⟩
        · exact ⟨finish_data _ _, finish_dataCount _ _⟩
        · exact ⟨finish_fecl _ _, finish_fecCount _ _⟩

theorem StoreStep.enqFecDecoded (len : Nat) {buf : List Byte} {s : State} (hpkt : s.pkt.packet = closedPacket buf) :
    StoreStep s (enqFecDecoded len s) := by
  rw [enqFecDecoded_eq, hpkt]
  split
  · exact .finish _ _
  · rename_i hprofile
    split
    · exact .finish _ _
    · rename_i hroom
      obtain ⟨hplain, hpt⟩ : plain (closedPacket buf) = true ∧ (closedPacket buf).pt = 96 := by
        simpa [Config.fecPt] using hprofile
      refine .afterFec fun t hwrites hlen hfec => ?_
      obtain ⟨⟨⟨_, _, _, hfecCount, _⟩, ⟨hparams, _⟩, _⟩, _⟩ := hwrites.sameOutsideDecode
      exact .enqFecParsed len (storedPlain_closedPacket hplain) hpt hlen (by rw [hfecCount, hparams]; omega) hfec

/-- A command with a buffer that answers has run. -/
theorem next_of_withBuffer {s u t : State} {len : Nat}
    (h : (if len ≤ s.params.pktMax then .next u else .refused (.bufferTooLong len) :
      Host.Outcome State Fault Refusal) = .next t) : u = t := by
  split at h
  · simpa using h
  · cases h

theorem execRead_storeStep {s t : State} (h : execRead s = .next t) : StoreStep s t := by
  unfold execRead at h
  split at h
  · cases h
    exact .finish _ _
  · rename_i front rest hdata
    split at h
    · cases h
      exact .deliver (by simp [hdata])
    · split at h
      · cases h
      · cases h
        exact .readAfter _ _ _

theorem execResponseStatus_storeStep {r : Bool} {code : BitVec 3} {s t : State}
    (h : execResponseStatus r code s = .next t) : StoreStep s t := by
  unfold execResponseStatus at h
  split at h
  · cases h
    exact .of_same (driveStatus_params _ _) ⟨driveStatus_data _ _, driveStatus_dataCount _ _, driveStatus_fecl _ _,
      driveStatus_fecCount _ _, driveStatus_cursor _ _⟩
  · cases h

/-- What every instruction can do to the stores. -/
theorem exec_storeStep {i : Instr} {s t : State} (h : exec i s = .next t) : StoreStep s t := by
  cases i with
  | read => exact execRead_storeStep h
  | enqData buf =>
    rw [← next_of_withBuffer h, enqData_eq]
    exact .afterRtp fun _ hpkt => .enqDataDecoded _ hpkt
  | enqFec buf =>
    rw [← next_of_withBuffer h, enqFec_eq]
    exact .afterRtp fun _ hpkt => .enqFecDecoded _ hpkt
  | decRtp buf =>
    rw [← next_of_withBuffer h, decRtp_eq]
    exact .afterRtp fun _ _ => .finish _ _
  | decFec buf =>
    rw [← next_of_withBuffer h, decFec_eq]
    exact .afterFec fun _ _ _ _ => .finish _ _
  | seqdist a b =>
    cases h
    exact .finish _ _
  | reserved3 | reserved7 => cases h
  | rtpW0Seq | rtpTs | fecBaseLen | fecW1 | fecTsrec =>
    cases h
    exact .of_outside (.refl s)
  | rtpSsrc | rtpCsrc =>
    cases h
    exact .of_outside ((setPkt_same _ _).trans (afterCsrcs_same _ _))
  | rtpExt f =>
    cases h
    exact .of_outside (rtpExtStep_same _ _)
  | fecW2 | fecAccepted =>
    cases h
    exact .of_outside ((setFec_same _ _).trans (afterFecHeader_same _))
  | responseStatus r code => exact execResponseStatus_storeStep h

/-- What stands at a slot, decoded and run. -/
theorem runAt_storeStep {slot : Slot} {bytes : List Byte} {bad : DecodeError → Host.Outcome State Fault Refusal}
    {s t : State} (hbad : ∀ e, bad e = .next t → StoreStep s t) (h : runAt slot bytes bad s = .next t) :
    StoreStep s t := by
  unfold runAt at h
  split at h
  · exact exec_storeStep h
  · exact hbad _ h

theorem refuseBytes_ne_next {e : DecodeError} {t : State} : refuseBytes e ≠ .next t := nofun

theorem badWord_storeStep {e : DecodeError} {s t : State} (h : badWord s e = .next t) : StoreStep s t := by
  unfold badWord at h
  split at h
  · cases h
    exact .of_outside (raiseAt_same _ _)
  · cases h

theorem portStep_storeStep {s t : State} (h : portStep s = .next t) : StoreStep s t := by
  unfold portStep at h
  split at h
  · cases h
    exact .of_outside (.refl _)
  · cases h
    exact ⟨rfl, .cleared ⟨rfl, rfl⟩ ⟨rfl, rfl⟩ rfl⟩
  · rename_i frame rest _
    exact .after (s' := s.setPending rest) rfl ⟨rfl, rfl, rfl, rfl, rfl⟩
      (runAt_storeStep (fun _ hbad => absurd hbad refuseBytes_ne_next) h)

/-- What every step can do to the stores. -/
theorem step_storeStep {s t : State} (h : step s = .next t) : StoreStep s t := by
  unfold step at h
  split at h
  · split at h
    · exact portStep_storeStep h
    · exact .afterDecode (fetchRow_writes _ _) (runAt_storeStep (fun _ => badWord_storeStep) h)
    · cases h
      exact .of_outside (payloadStep_same _)
    · exact runAt_storeStep (fun _ hbad => absurd hbad refuseBytes_ne_next) h
  · cases h

/-! ### The invariant of the stores -/

/-- An entry that is not to go survives the eviction. -/
theorem mem_dropWhile_of_stays {α : Type} {goes : α → Bool} {l : List α} {e : α} (he : e ∈ l) (h : goes e = false) :
    e ∈ l.dropWhile goes := by
  rw [← List.takeWhile_append_dropWhile (p := goes) (l := l), List.mem_append] at he
  refine he.resolve_left fun htake => ?_
  have hgoes := List.mem_takeWhile_imp htake
  rw [h] at hgoes
  cases hgoes

/-- What the invariant says of one list and its count: the gaps, the count within its limit, and what is stored. -/
def ListInv (m : Fin 32768) (cap : Nat) (key : Packet → SeqNum) (stored : Packet → Prop) (l : List Packet) (n : Nat) :
    Prop :=
  StepsWithin m.val (l.map key) ∧ n = l.length ∧ n ≤ cap ∧ ∀ e ∈ l, stored e

theorem storeInv_iff (s : State) :
    StoreInv s ↔
      ListInv s.params.maxDistance s.params.dataMax (fun e => e.seq) (fun e => StoredPlain e ∧ e.fec = none)
        s.data s.dataCount ∧
      ListInv s.params.maxDistance s.params.fecMax fecKey StoredFec s.fecl s.fecCount ∧ CursorStored s := by
  unfold StoreInv CountsRight ListInv
  tauto

section
variable {m : Fin 32768} {cap : Nat} {key : Packet → SeqNum} {stored : Packet → Prop} {l : List Packet} {n : Nat}

theorem ListInv.nil : ListInv m cap key stored [] 0 := ⟨.nil, rfl, Nat.zero_le _, by simp⟩

/-- Inserting where the scan says, while there is room. -/
theorem ListInv.insert (h : ListInv m cap key stored l n) {p : Packet} {pos : Nat} (hroom : n < cap) (hp : stored p)
    (hscan : insertScan m.val key l (key p) = .insertAt pos) :
    ListInv m cap key stored (insertAt l pos p) (n + 1) := by
  obtain ⟨hgaps, hcount, -, hstored⟩ := h
  refine ⟨hgaps.insert_scan hscan, by rw [length_insertAt, hcount], hroom, fun e he => ?_⟩
  obtain rfl | he := mem_insertAt.1 he
  · exact hp
  · exact hstored e he

/-- Evicting at the front, the count going down with the list. -/
theorem ListInv.evict (h : ListInv m cap key stored l n) (goes : Packet → Bool) :
    ListInv m cap key stored (l.dropWhile goes) (n - (l.length - (l.dropWhile goes).length)) := by
  obtain ⟨hgaps, hcount, hfits, hstored⟩ := h
  have hsub := List.dropWhile_sublist goes (l := l)
  have hle := hsub.length_le
  exact ⟨hgaps.dropWhile goes, by omega, by omega, fun e he => hstored e (hsub.subset he)⟩

end

/-- Empty stores and no cursor, as after reset (R33). -/
theorem storeInv_empty {t : State} (hdata : t.data = [] ∧ t.dataCount = 0) (hfecl : t.fecl = [] ∧ t.fecCount = 0)
    (hcursor : t.cursor = none) : StoreInv t := by
  rw [storeInv_iff, CursorStored, hdata.1, hdata.2, hfecl.1, hfecl.2, hcursor]
  exact ⟨.nil, .nil, nofun⟩

/-- Every step keeps the invariant of the stores, whatever the parameters. -/
theorem StoreStep.keeps_storeInv {s t : State} (h : StoreStep s t) (hs : StoreInv s) : StoreInv t := by
  obtain ⟨hparams, hchange⟩ := h
  rw [storeInv_iff] at hs
  obtain ⟨hdataInv, hfeclInv, hcursorIn⟩ := hs
  rw [storeInv_iff, hparams]
  cases hchange with
  | same h =>
    obtain ⟨hdata, hdataCount, hfecl, hfecCount, hcursor⟩ := h
    rw [CursorStored, hdata, hdataCount, hfecl, hfecCount, hcursor]
    exact ⟨hdataInv, hfeclInv, hcursorIn⟩
  | enqData p pos hplain hfec hroom hscan hdata hfecl hcursor =>
    rw [CursorStored, hdata.1, hdata.2, hfecl.1, hfecl.2, hcursor]
    refine ⟨hdataInv.insert hroom ⟨hplain, hfec⟩ hscan, hfeclInv, fun c hc => ?_⟩
    obtain ⟨e, he, hseq⟩ := hcursorIn c hc
    exact ⟨e, mem_insertAt.2 (.inr he), hseq⟩
  | enqFec p pos hstored hroom hscan hdata hfecl hcursor =>
    rw [CursorStored, hdata.1, hdata.2, hfecl.1, hfecl.2, hcursor]
    exact ⟨hdataInv, hfeclInv.insert hroom hstored hscan, hcursorIn⟩
  | delivered e he hdata hfecl hcursor =>
    rw [CursorStored, hdata.1, hdata.2, hfecl.1, hfecl.2, hcursor, flush_dataCount, flush_fecCount, flush_data,
      flush_fecl]
    refine ⟨hdataInv.evict _, hfeclInv.evict _, ?_⟩
    rintro c ⟨⟩
    exact ⟨e, mem_dropWhile_of_stays he (by simp [dist_self]), rfl⟩
  | cleared hdata hfecl hcursor =>
    rw [CursorStored, hdata.1, hdata.2, hfecl.1, hfecl.2, hcursor]
    exact ⟨.nil, .nil, nofun⟩

theorem storeInv_startState (p : Params) (events : List HostEvent) : StoreInv (startState p events) :=
  storeInv_empty ⟨rfl, rfl⟩ ⟨rfl, rfl⟩ rfl

/-- Settles O51: every step keeps the parameters and the invariant of the stores, which under R7 gives those of R31. -/
theorem specInvariantsHoldOnEveryRun : Obligations.SpecInvariantsHoldOnEveryRun := by
  intro p events k t hordered hrun
  have hkeeps : ∀ s t : State, s.params = p ∧ StoreInv s → step s = .next t → t.params = p ∧ StoreInv t := by
    rintro s t ⟨hparams, hinv⟩ hstep
    have hstore := step_storeStep hstep
    exact ⟨hstore.1.trans hparams, hstore.keeps_storeInv hinv⟩
  obtain ⟨hparams, hinv⟩ := runSteps_keeps hkeeps k _ t ⟨rfl, storeInv_startState p events⟩ hrun
  exact storeInvariantGivesOrder t (hparams ▸ hordered) hinv

end Sys2Proof.Machine

/-! PROOFS. Reset and the whole-machine rules of 10_state.md: the invariant of the stores, who writes them, and the
command boundary (R20, R23 to R26, R31, R33, R240). -/

namespace Sys2Proof.Machine

/-! ### The invariant of the stores (R31) -/

/-- Settles O48: a step inserts where the scan says, evicts at the front, clears the stores or leaves them alone, and
each of these keeps the invariant. -/
theorem stepKeepsStoreInvariant : Obligations.StepKeepsStoreInvariant :=
  fun _ _ hinv hstep => (step_storeStep hstep).keeps_storeInv hinv

/-- Settles O49: the stores are empty and the cursor is absent. -/
theorem resetHasStoreInvariant : Obligations.ResetHasStoreInvariant :=
  ⟨storeInv_empty ⟨rfl, rfl⟩ ⟨rfl, rfl⟩ rfl, rfl, rfl, rfl, rfl, rfl⟩

/-! ### Reset (R33, R240) -/

/-- The reset input leaves the start state of the same block; only the count of draws tells (log 5). -/
theorem applyReset_eq_startState (s : State) : applyReset s = (startState s.params s.pending).setDraws s.draws := rfl

theorem step_reset {s : State} {rest : List HostEvent} (hlegal : s.params.legal = true) (hphase : s.phase = .port)
    (hpending : s.pending = .reset :: rest) : step s = .next (applyReset (s.setPending rest)) := by
  simp only [step, hlegal, if_true, hphase, portStep, hpending]

theorem atBoundary_applyReset (s : State) : AtBoundary (applyReset s) := ⟨rfl, rfl, rfl, rfl, rfl⟩

theorem legal_of_step_next {s t : State} (h : step s = .next t) : s.params.legal = true := by
  unfold step at h
  split at h
  · assumption
  · cases h

/-- A step that takes the reset input forgets everything but the parameters and the events to come. -/
theorem setDraws_of_step_reset {s t : State} {rest : List HostEvent} (hphase : s.phase = .port)
    (hpending : s.pending = .reset :: rest) (h : step s = .next t) : t.setDraws 0 = startState s.params rest := by
  rw [step_reset (legal_of_step_next h) hphase hpending, Host.Outcome.next.injEq, applyReset_eq_startState] at h
  exact h ▸ rfl

/-- Settles O42: what the reset input leaves is determined by the parameters and the events to come. -/
theorem resetForgets : Obligations.ResetForgets := by
  refine ⟨⟨rfl, rfl, rfl, rfl, rfl⟩, ?_, ?_⟩
  · intro s rest hlegal hphase hpending
    exact ⟨_, step_reset hlegal hphase hpending, rfl, rfl, rfl, rfl, rfl, atBoundary_applyReset _, rfl, rfl, rfl⟩
  · intro s₁ s₂ t₁ t₂ rest hphase₁ hphase₂ hparams hpending₁ hpending₂ hstep₁ hstep₂
    rw [setDraws_of_step_reset hphase₁ hpending₁ hstep₁, setDraws_of_step_reset hphase₂ hpending₂ hstep₂, hparams]

/-! ### How a command ends -/

/-- A command has ended in `t`, at a boundary, with the persistent state and the surroundings of `s`. -/
def CommandEnds (s t : State) : Prop := AtBoundary t ∧ AgreeForCommands s t

theorem AgreeForCommands.trans {s t u : State} (h₁ : AgreeForCommands s t) (h₂ : AgreeForCommands t u) :
    AgreeForCommands s u := by
  obtain ⟨⟨hdata₁, hdataCount₁, hfecl₁, hfecCount₁, hcursor₁⟩, hparams₁, hpending₁⟩ := h₁
  obtain ⟨⟨hdata₂, hdataCount₂, hfecl₂, hfecCount₂, hcursor₂⟩, hparams₂, hpending₂⟩ := h₂
  exact ⟨⟨hdata₂.trans hdata₁, hdataCount₂.trans hdataCount₁, hfecl₂.trans hfecl₁, hfecCount₂.trans hfecCount₁,
    hcursor₂.trans hcursor₁⟩, hparams₂.trans hparams₁, hpending₂.trans hpending₁⟩

theorem SameOutsideDecode.agree {s t : State} (h : SameOutsideDecode s t) : AgreeForCommands s t := ⟨h.1, h.2.1⟩

theorem DecodeWrites.agree {s t : State} (h : DecodeWrites s t) : AgreeForCommands s t := h.sameOutsideDecode.1.agree

theorem driveStatus_agree (w : Status) (s : State) : AgreeForCommands s (driveStatus w s) :=
  ⟨⟨driveStatus_data s w, driveStatus_dataCount s w, driveStatus_fecl s w, driveStatus_fecCount s w,
    driveStatus_cursor s w⟩, driveStatus_params s w, driveStatus_pending s w⟩

theorem finish_agree (o : CmdOutcome) (s : State) : AgreeForCommands s (finish o s) :=
  ⟨(finish_answeredOnly s o).2, (finish_answered s o).2.2⟩

/-- `finish` ends a command. -/
theorem CommandEnds.finish {s u : State} (h : AgreeForCommands s u) (o : CmdOutcome) :
    CommandEnds s (Machine.finish o u) :=
  ⟨atBoundary_finish u o, h.trans (finish_agree o u)⟩

/-- What holds of a rejection and of what comes after the decode holds of the command. -/
theorem Decoded.thenCommand_of {P : State → Prop} {d : Decoded} {k : State → State}
    (hreject : ∀ r, P (reject r d.state)) (hk : P (k d.state)) : P (d.thenCommand k) := by
  cases d with
  | done s => exact hk
  | raised r s => exact hreject r

/-- A command that decodes and writes no store. -/
theorem CommandEnds.thenFinish {s : State} {d : Decoded} (h : DecodeWrites s d.state) (o : State → CmdOutcome) :
    CommandEnds s (d.thenCommand (fun t => Machine.finish (o t) t)) :=
  Decoded.thenCommand_of (fun _ => .finish h.agree _) (.finish h.agree _)

/-- `ENQ.DATA` writes at most the DATA list and its count (R161). -/
theorem enqDataDecoded_ends (len : Nat) {s u : State} (h : AgreeForCommands s u) :
    ∃ l n, CommandEnds (s.setData l n) (enqDataDecoded len u) := by
  have same (o : CmdOutcome) : ∃ l n, CommandEnds (s.setData l n) (finish o u) :=
    ⟨s.data, s.dataCount, .finish h o⟩
  unfold enqDataDecoded
  dsimp only
  split
  · exact same _
  · split
    · exact same _
    · split
      · exact same _
      · exact same _
      · exact ⟨_, _, .finish (h.setData _ _) _⟩

theorem enqData_ends (buf : List Byte) (s : State) : ∃ l n, CommandEnds (s.setData l n) (enqData buf s) := by
  have h := (rtpDecode_openStream_writes buf s).agree
  rw [enqData_eq]
  exact Decoded.thenCommand_of (P := fun t => ∃ l n, CommandEnds (s.setData l n) t)
    (fun _ => ⟨s.data, s.dataCount, .finish h _⟩) (enqDataDecoded_ends _ h)

theorem enqFecParsed_ends (len : Nat) (p : Packet) {s u : State} (h : AgreeForCommands s u) :
    ∃ l n, CommandEnds (s.setFecl l n) (enqFecParsed len p u) := by
  have same (o : CmdOutcome) : ∃ l n, CommandEnds (s.setFecl l n) (finish o u) :=
    ⟨s.fecl, s.fecCount, .finish h o⟩
  unfold enqFecParsed
  dsimp only
  split
  · exact same _
  · split
    · exact same _
    · split
      · exact same _
      · exact same _
      · exact ⟨_, _, .finish (h.setFecl _ _) _⟩

theorem enqFecDecoded_ends (len : Nat) {s u : State} (h : AgreeForCommands s u) :
    ∃ l n, CommandEnds (s.setFecl l n) (enqFecDecoded len u) := by
  have same {v : State} (hv : AgreeForCommands s v) (o : CmdOutcome) :
      ∃ l n, CommandEnds (s.setFecl l n) (finish o v) := ⟨s.fecl, s.fecCount, .finish hv o⟩
  rw [enqFecDecoded_eq]
  split
  · exact same h _
  · split
    · exact same h _
    · have hdecode := h.trans (fecDecode_writes u.pkt.packet.payload u).agree
      exact Decoded.thenCommand_of (P := fun t => ∃ l n, CommandEnds (s.setFecl l n) t)
        (fun _ => same hdecode _) (enqFecParsed_ends _ _ hdecode)

/-- `ENQ.FEC` writes at most the FEC list and its count (R164). -/
theorem enqFec_ends (buf : List Byte) (s : State) : ∃ l n, CommandEnds (s.setFecl l n) (enqFec buf s) := by
  have h := (rtpDecode_openStream_writes buf s).agree
  rw [enqFec_eq]
  exact Decoded.thenCommand_of (P := fun t => ∃ l n, CommandEnds (s.setFecl l n) t)
    (fun _ => ⟨s.fecl, s.fecCount, .finish h _⟩) (enqFecDecoded_ends _ h)

/-- `READ` answers `NotReady` or delivers (R190). -/
theorem readAfter_cases (c : SeqNum) (j : Nat) (s : State) :
    readAfter c j s = finish .notReady s ∨ ∃ e, readAfter c j s = deliver e s := by
  unfold readAfter
  split
  · exact .inl rfl
  · split
    · exact .inl rfl
    · exact .inr ⟨_, rfl⟩

theorem execRead_cases {s t : State} (h : execRead s = .next t) :
    t = finish .notReady s ∨ ∃ e, t = deliver e s := by
  unfold execRead at h
  split at h
  · cases h
    exact .inl rfl
  · split at h
    · cases h
      exact .inr ⟨_, rfl⟩
    · split at h
      · cases h
      · cases h
        exact readAfter_cases _ _ _

/-! ### Who writes the stores (R23, R24, R26) -/

/-- An instruction other than `READ` and the two enqueues writes nothing of what a later command sees. -/
theorem exec_agree {i : Instr} {s t : State} (hread : i ≠ .read) (hdata : ∀ buf, i ≠ .enqData buf)
    (hfec : ∀ buf, i ≠ .enqFec buf) (h : exec i s = .next t) : AgreeForCommands s t := by
  cases i with
  | read => exact absurd rfl hread
  | enqData buf => exact absurd rfl (hdata buf)
  | enqFec buf => exact absurd rfl (hfec buf)
  | decRtp buf =>
    rw [← next_of_withBuffer h, decRtp_eq]
    exact (CommandEnds.thenFinish (rtpDecode_openStream_writes buf s) _).2
  | decFec buf =>
    rw [← next_of_withBuffer h, decFec_eq]
    exact (CommandEnds.thenFinish (fecDecode_writes buf s) _).2
  | seqdist a b =>
    cases h
    exact finish_agree _ _
  | reserved3 | reserved7 => cases h
  | rtpW0Seq | rtpTs | fecBaseLen | fecW1 | fecTsrec =>
    cases h
    exact .refl s
  | rtpSsrc | rtpCsrc =>
    cases h
    exact ((setPkt_same _ _).trans (afterCsrcs_same _ _)).agree
  | rtpExt f =>
    cases h
    exact (rtpExtStep_same f s).agree
  | fecW2 | fecAccepted =>
    cases h
    exact ((setFec_same _ _).trans (afterFecHeader_same _)).agree
  | responseStatus r code =>
    simp only [exec, execResponseStatus] at h
    split at h
    · cases h
      exact driveStatus_agree _ _
    · cases h

/-- Settles O43: of the three commands that write, each writes its own part; every other instruction writes none. -/
theorem whoWritesTheStores : Obligations.WhoWritesTheStores := by
  intro i s t h
  by_cases hread : i = .read
  · subst hread
    refine ⟨?_, absurd rfl, fun hne => absurd rfl hne, fun hne => absurd rfl hne⟩
    obtain rfl | ⟨e, rfl⟩ := execRead_cases h
    · exact (finish_answered s _).2.2
    · exact (deliver_answered e s).2.2
  by_cases hdata : ∃ buf, i = .enqData buf
  · obtain ⟨buf, rfl⟩ := hdata
    obtain ⟨l, n, -, ⟨-, -, hfecl, hfecCount, hcursor⟩, hsurroundings⟩ := enqData_ends buf s
    rw [next_of_withBuffer h] at hfecl hfecCount hcursor hsurroundings
    exact ⟨hsurroundings, fun _ => hcursor, fun _ hne => absurd rfl (hne buf), fun _ _ => ⟨hfecl, hfecCount⟩⟩
  by_cases hfec : ∃ buf, i = .enqFec buf
  · obtain ⟨buf, rfl⟩ := hfec
    obtain ⟨l, n, -, ⟨hdata, hdataCount, -, -, hcursor⟩, hsurroundings⟩ := enqFec_ends buf s
    rw [next_of_withBuffer h] at hdata hdataCount hcursor hsurroundings
    exact ⟨hsurroundings, fun _ => hcursor, fun _ _ => ⟨hdata, hdataCount⟩, fun _ hne => absurd rfl (hne buf)⟩
  · obtain ⟨⟨hdata, hdataCount, hfecl, hfecCount, hcursor⟩, hsurroundings⟩ :=
      exec_agree hread (not_exists.1 hdata) (not_exists.1 hfec) h
    exact ⟨hsurroundings, fun _ => hcursor, fun _ _ => ⟨hdata, hdataCount⟩, fun _ _ => ⟨hfecl, hfecCount⟩⟩

/-! ### What a step takes -/

/-- Everything a step that answers can have been: a rest, the reset input, a presented command, or inside a decode a
step that writes no more than the decode, or an instruction after the reads that fetched it. -/
inductive StepTaken (s t : State) : Prop where
  | rest (ht : t = s)
  | reset (events : List HostEvent) (hphase : s.phase = .port) (hpending : s.pending = .reset :: events)
      (ht : t = applyReset (s.setPending events))
  | command (i : Instr) (events : List HostEvent) (hport : i.slot = .port)
      (hexec : exec i (s.setPending events) = .next t)
  | word (i : Instr) (s' : State) (hphase : s.phase ≠ .port) (hfetch : DecodeWrites s s')
      (hexec : exec i s' = .next t)
  | inDecode (hphase : s.phase ≠ .port) (h : SameOutsideDecode s t)

theorem runAt_next {slot : Slot} {bytes : List Byte} {bad : DecodeError → Host.Outcome State Fault Refusal}
    {s t : State} (h : runAt slot bytes bad s = .next t) :
    (∃ i more, decode slot bytes = .ok (i, more) ∧ exec i s = .next t) ∨ ∃ e, bad e = .next t := by
  unfold runAt at h
  split at h
  · exact .inl ⟨_, _, ‹_›, h⟩
  · exact .inr ⟨_, h⟩

theorem portStep_taken {s t : State} (hphase : s.phase = .port) (h : portStep s = .next t) : StepTaken s t := by
  unfold portStep at h
  split at h
  · cases h
    exact .rest rfl
  · rename_i events hpending
    cases h
    exact .reset events hphase hpending rfl
  · rename_i frame events _
    obtain ⟨i, more, hdecode, hexec⟩ | ⟨e, hbad⟩ := runAt_next h
    · exact .command i events (decodePort_slot hdecode) hexec
    · exact absurd hbad refuseBytes_ne_next

theorem badWord_same {e : DecodeError} {s t : State} (h : badWord s e = .next t) : SameOutsideDecode s t := by
  unfold badWord at h
  split at h
  · cases h
    exact raiseAt_same _ _
  · cases h

theorem step_taken {s t : State} (h : step s = .next t) : StepTaken s t := by
  unfold step at h
  split at h
  · split at h
    · exact portStep_taken ‹_› h
    · rename_i row hphase
      have hfetch := fetchRow_writes row s
      obtain ⟨i, more, -, hexec⟩ | ⟨e, hbad⟩ := runAt_next h
      · exact .word i _ (by simp [hphase]) hfetch hexec
      · exact .inDecode (by simp [hphase]) (hfetch.sameOutsideDecode.1.trans (badWord_same hbad))
    · rename_i hphase
      cases h
      exact .inDecode (by simp [hphase]) (payloadStep_same s)
    · rename_i w hphase
      obtain ⟨i, more, -, hexec⟩ | ⟨e, hbad⟩ := runAt_next h
      · exact .word i s (by simp [hphase]) (.refl s) hexec
      · exact absurd hbad refuseBytes_ne_next
  · cases h

/-! ### The cursor (R26) -/

/-- An instruction that finds the cursor set leaves it set. -/
theorem exec_cursor_ne_none {i : Instr} {s t : State} (h : exec i s = .next t) (hs : s.cursor ≠ none) :
    t.cursor ≠ none := by
  by_cases hread : i = .read
  · subst hread
    obtain rfl | ⟨e, rfl⟩ := execRead_cases h
    · rwa [finish_cursor]
    · simp [deliver_cursor]
  · rwa [(whoWritesTheStores i s t h).2.1 hread]

/-- Settles O46: neither an instruction nor a rest makes the cursor absent. -/
theorem cursorLostOnlyByReset : Obligations.CursorLostOnlyByReset := by
  intro s t hstep hs ht
  cases step_taken hstep with
  | rest h => exact absurd (h ▸ ht) hs
  | reset events hphase hpending _ => exact ⟨hphase, events, hpending⟩
  | command i events _ hexec => exact absurd ht (exec_cursor_ne_none hexec hs)
  | word i s' _ hfetch hexec =>
    obtain ⟨⟨-, -, -, -, hcursor⟩, -⟩ := hfetch.agree
    exact absurd ht (exec_cursor_ne_none hexec (hcursor ▸ hs))
  | inDecode _ h =>
    obtain ⟨⟨-, -, -, -, hcursor⟩, -⟩ := h
    exact absurd (hcursor ▸ ht) hs

/-! ### The command boundary (R20, R60) -/

theorem atBoundary_of_exec {i : Instr} {s t : State} (hport : i.slot = .port) (h : exec i s = .next t) :
    AtBoundary t := by
  cases i with
  | read =>
    obtain rfl | ⟨e, rfl⟩ := execRead_cases h
    · exact atBoundary_finish _ _
    · exact atBoundary_finish _ _
  | enqData buf =>
    obtain ⟨l, n, hends, -⟩ := enqData_ends buf s
    exact next_of_withBuffer h ▸ hends
  | enqFec buf =>
    obtain ⟨l, n, hends, -⟩ := enqFec_ends buf s
    exact next_of_withBuffer h ▸ hends
  | decRtp buf =>
    rw [← next_of_withBuffer h, decRtp_eq]
    exact (CommandEnds.thenFinish (rtpDecode_openStream_writes buf s) _).1
  | decFec buf =>
    rw [← next_of_withBuffer h, decFec_eq]
    exact (CommandEnds.thenFinish (fecDecode_writes buf s) _).1
  | seqdist a b =>
    cases h
    exact atBoundary_finish _ _
  | reserved3 | reserved7 => cases h
  | _ => cases hport

/-- Settles O47: every command ends in `finish`, and at a boundary a step rests, resets or runs a command. -/
theorem stepsKeepBoundaryAndParameters : Obligations.StepsKeepBoundaryAndParameters := by
  refine ⟨fun i s t hport h => atBoundary_of_exec hport h, ?_, fun s t hstep => (step_storeStep hstep).1⟩
  intro s t hs hstep
  cases step_taken hstep with
  | rest h => exact h ▸ hs
  | reset events _ _ h => exact h ▸ atBoundary_applyReset _
  | command i events hport hexec => exact atBoundary_of_exec hport hexec
  | word _ _ hphase => exact absurd hs.1 hphase
  | inDecode hphase => exact absurd hs.1 hphase

end Sys2Proof.Machine

/-! PROOFS. No command reads a transient register (R20), down to the count of draws: how much a decode draws depends on
the reader alone, and a decode opens its reader itself. -/

namespace Sys2Proof.Machine

/-! ### Reads on equal readers (R53, R54) -/

/-- The same reader over the same buffer, and the same draws to come. -/
def SameReader (s t : State) : Prop := t.strm = s.strm ∧ t.draws = s.draws

theorem SameReader.openStream {s t : State} (hdraws : t.draws = s.draws) (buf : List Byte) :
    SameReader (openStream buf s) (openStream buf t) := ⟨rfl, hdraws⟩

theorem SameReader.setPkt {s t : State} (h : SameReader s t) (x y : PktRegs) :
    SameReader (s.setPkt x) (t.setPkt y) := h

theorem rtpFixedHeader_cc (s : State) : (rtpFixedHeader s).pkt.cc = (RtpW0Seq.ofWord (rdPair s).1).cc := by
  simp only [rtpFixedHeader, latchRtpSsrc, latchRtpTs, latchRtpW0Seq, State.setPkt_pkt, rd32_pkt]

theorem rtpFixedHeader_extension (s : State) :
    (rtpFixedHeader s).pkt.extension = (RtpW0Seq.ofWord (rdPair s).1).extension := by
  simp only [rtpFixedHeader, latchRtpSsrc, latchRtpTs, latchRtpW0Seq, State.setPkt_pkt, rd32_pkt]

theorem rtpCsrcList_extension (n i : Nat) (s : State) : (rtpCsrcList n i s).pkt.extension = s.pkt.extension := by
  rw [rtpCsrcList_pkt]

/-- The payload step draws in its one read, whatever comes of it (R114, R115). -/
theorem rtpPayload_draws (s : State) : (rtpPayload s).state.draws = (rdbytes (remaining s) s).2.draws := by
  unfold rtpPayload
  dsimp only
  split
  · split <;> rfl
  · rfl

section
variable {s t : State} (h : SameReader s t)
include h

theorem SameReader.memByte (addr : Nat) : memByte t addr = memByte s addr := by
  rw [Machine.memByte, Machine.memByte, h.1]

theorem SameReader.advance (n : Nat) : SameReader (advance n s) (advance n t) := by
  refine ⟨?_, h.2⟩
  simp only [Machine.advance, State.setStrm_strm, h.1]

theorem SameReader.runOff (n : Nat) : SameReader (countDraws n (outOfBounds s)) (countDraws n (outOfBounds t)) := by
  refine ⟨?_, congrArg (· + n) h.2⟩
  simp only [countDraws, outOfBounds, State.setDraws_strm, State.setStrm_strm, h.1]

theorem SameReader.rd16 : (rd16 t).1 = (rd16 s).1 ∧ SameReader (rd16 s).2 (rd16 t).2 := by
  simp only [Machine.rd16, memRead16, h.memByte, h.1, h.2]
  split
  · exact ⟨rfl, h.advance 2⟩
  · exact ⟨rfl, h.runOff 1⟩

theorem SameReader.rd32 : (rd32 t).1 = (rd32 s).1 ∧ SameReader (rd32 s).2 (rd32 t).2 := by
  simp only [Machine.rd32, memRead32, h.memByte, h.1, h.2]
  split
  · exact ⟨rfl, h.advance 4⟩
  · exact ⟨rfl, h.runOff 1⟩

theorem SameReader.rdbytes (n : Nat) : SameReader (rdbytes n s).2 (rdbytes n t).2 := by
  simp only [Machine.rdbytes, h.1]
  split
  · exact h.advance n
  · exact h.runOff n

theorem SameReader.rdPair : (rdPair t).1 = (rdPair s).1 ∧ SameReader (rdPair s).2 (rdPair t).2 := by
  obtain ⟨hhi, hnext⟩ := h.rd16
  obtain ⟨hlo, hrest⟩ := hnext.rd16
  exact ⟨by rw [Machine.rdPair, Machine.rdPair, hhi, hlo], hrest⟩

/-! ### The RTP decode on equal readers (R110) -/

/-- The fixed header leaves equal readers, and the two fields that steer the decode from there on are equal. -/
theorem SameReader.rtpFixedHeader :
    SameReader (rtpFixedHeader s) (rtpFixedHeader t) ∧ (rtpFixedHeader t).pkt.cc = (rtpFixedHeader s).pkt.cc ∧
      (rtpFixedHeader t).pkt.extension = (rtpFixedHeader s).pkt.extension := by
  refine ⟨?_, by rw [rtpFixedHeader_cc, rtpFixedHeader_cc, h.rdPair.1],
    by rw [rtpFixedHeader_extension, rtpFixedHeader_extension, h.rdPair.1]⟩
  unfold Machine.rtpFixedHeader latchRtpW0Seq latchRtpTs latchRtpSsrc
  exact (((h.rdPair.2.setPkt _ _).rd32.2.setPkt _ _).rd32.2.setPkt _ _)

omit h in
theorem SameReader.rtpCsrcList (n i : Nat) {s t : State} (h : SameReader s t) :
    SameReader (rtpCsrcList n i s) (rtpCsrcList n i t) := by
  induction n generalizing i s t with
  | zero => exact h
  | succ n ih =>
    exact ih (i + 1) (h.rd32.2.setPkt _ _)

theorem SameReader.remaining : remaining t = remaining s := by rw [Machine.remaining, Machine.remaining, h.1]

theorem SameReader.rtpPayload_draws : (rtpPayload t).state.draws = (rtpPayload s).state.draws := by
  rw [Machine.rtpPayload_draws, Machine.rtpPayload_draws, h.remaining]
  exact (h.rdbytes _).2

theorem SameReader.latchRtpExt_draws (f : RtpExt) :
    ((latchRtpExt f t).andThen rtpPayload).state.draws = ((latchRtpExt f s).andThen rtpPayload).state.draws := by
  unfold latchRtpExt
  rw [h.remaining]
  split
  · exact h.2
  · exact ((h.rdbytes f.length.toNat).setPkt _ _).rtpPayload_draws

theorem SameReader.rtpExtension_draws (hext : t.pkt.extension = s.pkt.extension) :
    ((rtpExtension t).andThen rtpPayload).state.draws = ((rtpExtension s).andThen rtpPayload).state.draws := by
  unfold rtpExtension
  rw [hext]
  split
  · obtain ⟨hword, hw⟩ := h.rdPair
    dsimp only
    rw [hword]
    exact hw.latchRtpExt_draws _
  · exact (h.setPkt _ _).rtpPayload_draws

theorem SameReader.rtpDecode_draws : (rtpDecode t).state.draws = (rtpDecode s).state.draws := by
  obtain ⟨hfixed, hcc, hext⟩ := h.rtpFixedHeader
  rw [rtpDecode_eq, rtpDecode_eq, hcc]
  refine (hfixed.rtpCsrcList _ 0).rtpExtension_draws ?_
  rw [rtpCsrcList_extension, rtpCsrcList_extension, hext]

end

/-! ### The FEC decode draws nothing: it tests the length first (R130) -/

section
variable {buf : List Byte} {n : Nat} {s : State} (h : Asked buf n s.strm)
include h

theorem Asked.rd16_draws (hn : n + 2 ≤ buf.length) : (Machine.rd16 s).2.draws = s.draws := by
  have hx := h.inside (by omega)
  rw [Machine.rd16, if_pos (by rw [hx]; exact hn)]
  rfl

theorem Asked.rd32_draws (hn : n + 4 ≤ buf.length) : (Machine.rd32 s).2.draws = s.draws := by
  have hx := h.inside (by omega)
  rw [Machine.rd32, if_pos (by rw [hx]; exact hn)]
  rfl

theorem Asked.rdPair_draws (hn : n + 4 ≤ buf.length) : (Machine.rdPair s).2.draws = s.draws :=
  (h.rd16.rd16_draws hn).trans (h.rd16_draws (by omega))

end

theorem fecWords_draws {buf : List Byte} {s : State} (h : Asked buf 0 s.strm) (hlen : 16 ≤ buf.length) :
    (fecWords s).draws = s.draws := by
  obtain ⟨a1, -⟩ := h.fecBaseLen (by omega)
  have d1 : (latchFecBaseLen (FecBaseLen.ofWord (rdPair s).1) (rdPair s).2).draws = s.draws :=
    h.rdPair_draws (by omega)
  unfold fecWords
  dsimp only
  generalize latchFecBaseLen (FecBaseLen.ofWord (rdPair s).1) (rdPair s).2 = s1 at a1 d1 ⊢
  obtain ⟨a2, -⟩ := a1.fecW1 (by omega)
  have d2 : (latchFecW1 (FecW1.ofWord (rd32 s1).1) (rd32 s1).2).draws = s1.draws := a1.rd32_draws (by omega)
  generalize latchFecW1 (FecW1.ofWord (rd32 s1).1) (rd32 s1).2 = s2 at a2 d2 ⊢
  obtain ⟨a3, -⟩ := a2.fecTsrec (by omega)
  have d3 : (latchFecTsrec (rd32 s2).1 (rd32 s2).2).draws = s2.draws := a2.rd32_draws (by omega)
  generalize latchFecTsrec (rd32 s2).1 (rd32 s2).2 = s3 at a3 d3 ⊢
  have d4 : (latchFecW2 (FecW2.ofWord (rd32 s3).1) (rd32 s3).2).draws = s3.draws := a3.rd32_draws hlen
  rw [d4, d3, d2, d1]

theorem fecDecode_draws (payload : List Byte) (s : State) : (fecDecode payload s).state.draws = s.draws := by
  unfold fecDecode
  split
  · rfl
  · rename_i hlen
    exact fecWords_draws (asked_openStream payload s) (Nat.le_of_not_lt hlen)

/-! ### The count of draws after a command (log 5) -/

theorem enqDataDecoded_draws (len : Nat) (s : State) : (enqDataDecoded len s).draws = s.draws := by
  unfold enqDataDecoded
  dsimp only
  split
  · exact finish_draws _ _
  · split
    · exact finish_draws _ _
    · split <;> exact finish_draws _ _

theorem enqFecParsed_draws (len : Nat) (p : Packet) (s : State) : (enqFecParsed len p s).draws = s.draws := by
  unfold enqFecParsed
  dsimp only
  split
  · exact finish_draws _ _
  · split
    · exact finish_draws _ _
    · split <;> exact finish_draws _ _

/-- What the end of a command leaves of the draws is the decode's count. -/
theorem Decoded.thenCommand_draws {d : Decoded} {k : State → State} (hk : ∀ s, (k s).draws = s.draws) :
    (d.thenCommand k).draws = d.state.draws :=
  Decoded.thenCommand_of (P := fun t => t.draws = d.state.draws) (fun _ => finish_draws _ _) (hk _)

theorem enqFecDecoded_draws (len : Nat) (s : State) : (enqFecDecoded len s).draws = s.draws := by
  rw [enqFecDecoded_eq]
  split
  · exact finish_draws _ _
  · split
    · exact finish_draws _ _
    · rw [Decoded.thenCommand_draws (enqFecParsed_draws len _), fecDecode_draws]

/-- The count of draws after a command: only an RTP decode draws. -/
def drawsAfter (i : Instr) (s : State) : Nat :=
  match i with
  | .enqData buf => (rtpDecode (openStream buf s)).state.draws
  | .enqFec buf => (rtpDecode (openStream buf s)).state.draws
  | .decRtp buf => (rtpDecode (openStream buf s)).state.draws
  | _ => s.draws

theorem exec_draws {i : Instr} {s t : State} (hport : i.slot = .port) (h : exec i s = .next t) :
    t.draws = drawsAfter i s := by
  cases i with
  | read =>
    obtain rfl | ⟨e, rfl⟩ := execRead_cases h
    · exact finish_draws _ _
    · exact finish_draws _ _
  | enqData buf =>
    rw [← next_of_withBuffer h, enqData_eq]
    exact Decoded.thenCommand_draws (enqDataDecoded_draws _)
  | enqFec buf =>
    rw [← next_of_withBuffer h, enqFec_eq]
    exact Decoded.thenCommand_draws (enqFecDecoded_draws _)
  | decRtp buf =>
    rw [← next_of_withBuffer h, decRtp_eq]
    exact Decoded.thenCommand_draws (fun _ => finish_draws _ _)
  | decFec buf =>
    rw [← next_of_withBuffer h, decFec_eq, Decoded.thenCommand_draws (fun _ => finish_draws _ _)]
    exact fecDecode_draws buf s
  | seqdist a b =>
    cases h
    exact finish_draws _ _
  | reserved3 | reserved7 => cases h
  | _ => cases hport

theorem drawsAfter_of_draws_eq (i : Instr) {s t : State} (h : t.draws = s.draws) : drawsAfter i t = drawsAfter i s := by
  cases i with
  | enqData buf | enqFec buf | decRtp buf => exact (SameReader.openStream h buf).rtpDecode_draws
  | _ => exact h

/-! ### The whole outcome -/

/-- Outcomes that agree but for the draws, and in the draws. -/
theorem eq_of_forgetDraws_eq {a b : Host.Outcome State Fault Refusal} (h : forgetDraws a = forgetDraws b)
    (hdraws : ∀ s t, a = .next s → b = .next t → s.draws = t.draws) : a = b := by
  cases a with
  | next s =>
    cases b with
    | next t =>
      have hrest : s.setDraws 0 = t.setDraws 0 := Host.Outcome.next.inj h
      refine congrArg Host.Outcome.next ?_
      calc
        s = (s.setDraws 0).setDraws s.draws := rfl
        _ = (t.setDraws 0).setDraws t.draws := by rw [hrest, hdraws s t rfl rfl]
        _ = t := rfl
    | fault _ | refused _ => cases h
  | fault _ =>
    cases b with
    | fault _ => cases h; rfl
    | next _ | refused _ => cases h
  | refused _ =>
    cases b with
    | refused _ => cases h; rfl
    | next _ | fault _ => cases h

/-- With the same draws to come, states that agree for commands give every command the same outcome. -/
theorem AgreeForCommands.exec_eq {s t : State} (h : AgreeForCommands s t) (hdraws : t.draws = s.draws) {i : Instr}
    (hport : i.slot = .port) : Machine.exec i t = Machine.exec i s :=
  eq_of_forgetDraws_eq (h.exec hport) fun _ _ ht hs => by
    rw [exec_draws hport ht, exec_draws hport hs, drawsAfter_of_draws_eq i hdraws]

/-- Settles O44: states that differ in the transient registers and the phase agree for commands. -/
theorem commandsReadNoTransient : Obligations.CommandsReadNoTransient := by
  intro i s x y z v p hport
  have hagree : AgreeForCommands s (((((s.setStrm x).setPkt y).setFec z).setValue v).setPhase p) :=
    AgreeForCommands.refl s
  exact hagree.exec_eq rfl hport

end Sys2Proof.Machine

/-! PROOFS. The stream reader as the spec says its reads (R53, R54), the word of the stream that a step takes (R83 to
R87, R131), and the refusal of a buffer that no reader is opened over (R59). -/

namespace Sys2Proof.Machine

/-! ### The reads in bounds and off the end (R53, R54) -/

section
variable {s : State}

theorem rd16_inBounds (h : s.strm.pos + 2 ≤ s.strm.len) : rd16 s = (memRead16 s s.strm.pos, advance 2 s) := if_pos h

theorem rd16_offEnd (h : s.strm.len < s.strm.pos + 2) :
    rd16 s = (Config.draw16 s.draws, countDraws 1 (outOfBounds s)) := if_neg (Nat.not_le.2 h)

theorem rd32_inBounds (h : s.strm.pos + 4 ≤ s.strm.len) : rd32 s = (memRead32 s s.strm.pos, advance 4 s) := if_pos h

theorem rd32_offEnd (h : s.strm.len < s.strm.pos + 4) :
    rd32 s = (Config.draw32 s.draws, countDraws 1 (outOfBounds s)) := if_neg (Nat.not_le.2 h)

theorem rdbytes_inBounds {n : Nat} (h : s.strm.pos + n ≤ s.strm.len) :
    rdbytes n s = ((List.range' s.strm.pos n).map (memByte s), advance n s) := if_pos h

theorem rdbytes_offEnd {n : Nat} (h : s.strm.len < s.strm.pos + n) :
    rdbytes n s = ((List.range' s.draws n).map Config.drawByte, countDraws n (outOfBounds s)) :=
  if_neg (Nat.not_le.2 h)

@[simp] theorem advance_pos (n : Nat) (s : State) : (advance n s).strm.pos = s.strm.pos + n := rfl
@[simp] theorem advance_len (n : Nat) (s : State) : (advance n s).strm.len = s.strm.len := rfl

theorem advance_advance (m n : Nat) (s : State) : advance n (advance m s) = advance (m + n) s := by
  simp only [advance, State.setStrm, Nat.add_assoc]

theorem be16_append_be16 (b0 b1 b2 b3 : Byte) : be16 b0 b1 ++ be16 b2 b3 = be32 b0 b1 b2 b3 := by
  apply BitVec.eq_of_toNat_eq
  rw [toNat_append_eq, be16_toNat, be16_toNat, be32_toNat]
  omega

/-- Two 16-bit reads in bounds are one 32-bit read (R56). -/
theorem rdPair_eq_rd32 (h : s.strm.pos + 4 ≤ s.strm.len) : rdPair s = rd32 s := by
  rw [rdPair, rd16_inBounds (by omega), rd16_inBounds (by simp only [advance_pos, advance_len]; omega),
    rd32_inBounds h, advance_advance]
  exact Prod.ext (be16_append_be16 _ _ _ _) rfl

end

/-- Settles O10: each read is its in-bounds or its off-the-end branch, and below `strm.len` stand the bytes of `buf`. -/
theorem streamReads : Obligations.StreamReads := by
  intro s hlen _
  refine ⟨fun h => ?_, fun h => ?_, fun h => ?_, fun h => ?_, fun n h => ?_, fun n h => ?_⟩
  · rw [rd16_inBounds h, memRead16_eq (hlen ▸ h)]
    rfl
  · rw [rd16_offEnd h]
    rfl
  · rw [rd32_inBounds h, memRead32_eq (hlen ▸ h)]
    rfl
  · rw [rd32_offEnd h]
    rfl
  · rw [rdbytes_inBounds h, map_memByte_range' (hlen ▸ h)]
    rfl
  · rw [rdbytes_offEnd h]
    exact ⟨by rw [List.length_map, List.length_range'], rfl⟩

/-! ### The bytes that a row takes from the stream (R56, R83 to R87) -/

/-- How many bytes a row of the stream has. -/
def rowBytes (row : WireRow) : Nat := if row = .fecAccepted then 16 else 4

theorem rowBytes_word {row : WireRow} (hrow : row ≠ .fecAccepted) : rowBytes row = 4 := if_neg hrow

theorem bytes32_be32 (b0 b1 b2 b3 : Byte) : bytes32 (be32 b0 b1 b2 b3) = [b0, b1, b2, b3] := by
  simp only [bytes32, List.cons.injEq, and_true, ← BitVec.toNat_inj, BitVec.extractLsb'_toNat, be32_toNat,
    Nat.shiftRight_eq_div_pow]
  omega

/-- A word read in bounds is its four bytes. -/
theorem bytes32_rd32 {s : State} (h : s.strm.pos + 4 ≤ s.strm.len) :
    bytes32 (rd32 s).1 = (List.range' s.strm.pos 4).map (memByte s) := by
  rw [rd32_inBounds h]
  exact bytes32_be32 _ _ _ _

theorem fetchRow_word {row : WireRow} (hrow : row ≠ .fecAccepted) {s : State} (h : s.strm.pos + 4 ≤ s.strm.len) :
    fetchRow row s = (bytes32 (rd32 s).1, (rd32 s).2) := by
  cases row
  case fecAccepted => exact absurd rfl hrow
  all_goals simp only [fetchRow, rdPair_eq_rd32 h]

/-- The four words of the header are sixteen bytes in a row. -/
theorem fetchRow_fecAccepted {s : State} (h : s.strm.pos + 16 ≤ s.strm.len) :
    fetchRow .fecAccepted s = ((List.range' s.strm.pos 16).map (memByte s), advance 16 s) := by
  have hfirst : rdPair s = (memRead32 s s.strm.pos, advance 4 s) := by
    rw [rdPair_eq_rd32 (by omega), rd32_inBounds (by omega)]
  have hword (n : Nat) (hn : n ≤ 12) :
      rd32 (advance n s) = (memRead32 (advance n s) (s.strm.pos + n), advance (n + 4) s) := by
    rw [rd32_inBounds (by simp only [advance_pos, advance_len]; omega), advance_advance, advance_pos]
  simp only [fetchRow, hfirst, hword 4 (by decide), hword 8 (by decide), hword 12 (by decide), memRead32, bytes32_be32]
  rfl

/-- In bounds a row takes its bytes, and the reader moves past them. -/
theorem fetchRow_inBounds {row : WireRow} {s : State} (h : s.strm.pos + rowBytes row ≤ s.strm.len) :
    fetchRow row s = ((List.range' s.strm.pos (rowBytes row)).map (memByte s), advance (rowBytes row) s) := by
  by_cases hrow : row = .fecAccepted
  · subst hrow
    exact fetchRow_fecAccepted h
  · rw [rowBytes_word hrow] at h ⊢
    rw [fetchRow_word hrow h, bytes32_rd32 h, rd32_inBounds h]

/-! ### A row decodes from its own bytes alone -/

theorem decodeWord_take {mk : U32 → Instr} {bytes : List Byte} (h : decodeWord mk bytes ≠ .error .shortWord) :
    decodeWord mk (bytes.take 4) = (decodeWord mk bytes).map fun r => (r.1, []) := by
  unfold decodeWord at h ⊢
  split at h
  · rfl
  · exact absurd rfl h

theorem decodeAccepted_take {bytes : List Byte} (h : decodeAccepted bytes ≠ .error .shortWord) :
    decodeAccepted (bytes.take 16) = (decodeAccepted bytes).map fun r => (r.1, []) := by
  unfold decodeAccepted at h
  split at h
  · simp only [List.take_succ_cons, List.take_zero, decodeAccepted]
    split <;> rfl
  · exact absurd rfl h

theorem decodeRow_word {row : WireRow} (hrow : row ≠ .fecAccepted) : ∃ mk, decodeRow row = decodeWord mk := by
  cases row
  case fecAccepted => exact absurd rfl hrow
  all_goals exact ⟨_, by rw [decodeRow]⟩

/-- Bytes that are not too short decode as the row's own bytes do, with nothing left after them. -/
theorem decodeRow_take {row : WireRow} {bytes : List Byte} (h : decodeRow row bytes ≠ .error .shortWord) :
    decodeRow row (bytes.take (rowBytes row)) = (decodeRow row bytes).map fun r => (r.1, []) := by
  by_cases hrow : row = .fecAccepted
  · subst hrow
    exact decodeAccepted_take h
  · obtain ⟨mk, hmk⟩ := decodeRow_word hrow
    rw [hmk] at h ⊢
    rw [rowBytes_word hrow]
    exact decodeWord_take h

/-! ### The step inside a decode -/

theorem step_wire {s : State} {row : WireRow} (hlegal : s.params.legal = true) (hphase : s.phase = .wire row) :
    step s = wireStep row s := by
  simp only [step, hlegal, if_true, hphase]

/-- With a row's bytes in the buffer, the step decodes what stands at `strm.pos` and runs on from behind them. -/
theorem wireStep_inBounds {row : WireRow} {s : State} (hlen : s.strm.len = s.strm.buf.length)
    (h : s.strm.pos + rowBytes row ≤ s.strm.len)
    (hword : decode (.wire row) (s.strm.buf.drop s.strm.pos) ≠ .error .shortWord) :
    wireStep row s = runAt (.wire row) (s.strm.buf.drop s.strm.pos) (badWord (advance (rowBytes row) s))
      (advance (rowBytes row) s) := by
  have htake : decode (.wire row) ((s.strm.buf.drop s.strm.pos).take (rowBytes row)) =
      (decode (.wire row) (s.strm.buf.drop s.strm.pos)).map fun r => (r.1, []) := decodeRow_take hword
  rw [wireStep, fetchRow_inBounds h, map_memByte_range' (hlen ▸ h), runAt, htake, runAt]
  cases decode (.wire row) (s.strm.buf.drop s.strm.pos) <;> rfl

/-- A whole header outside the profile (R164). -/
theorem notAccepted_of_ok {s : State} (h : s.strm.ok = true) :
    notAccepted s = (s.setValue (.count 0)).setPhase (.respond 0b1010) := by
  rw [notAccepted, valid, h]
  rfl

/-- Settles O5: the row's bytes stand in the buffer from `strm.pos` on, and it decodes from them alone. -/
theorem stepRunsWireWord : Obligations.StepRunsWireWord := by
  intro s row hlegal hphase hlen hpos
  have hstep := fun hword => (step_wire hlegal hphase).trans (wireStep_inBounds hlen hpos hword)
  refine ⟨fun i more hdecode => ?_, fun hdecode hok => ?_⟩
  · rw [hstep (by rw [hdecode]; nofun), runAt, hdecode]
    rfl
  · rw [hstep (by rw [hdecode]; nofun), runAt, hdecode]
    exact congrArg Host.Outcome.next (notAccepted_of_ok hok)

/-! ### Buffers longer than `PKT_MAX` -/

/-- Settles O9: each of the four commands tests the length before anything else. -/
theorem longBufferRefused : Obligations.LongBufferRefused := by
  intro buf s hlong
  have hnot : ¬ buf.length ≤ s.params.pktMax := Nat.not_le.2 hlong
  exact ⟨if_neg hnot, if_neg hnot, if_neg hnot, if_neg hnot⟩

end Sys2Proof.Machine

/-! PROOFS. The encoder and the decoder at every slot (R80 to R87, R131): the wire words by their fields, the header in
the accepted profile, and the status word, which a step at the response port drives. -/

namespace Sys2Proof.Machine

/-! ### Words put together from fields, and taken apart again (R53) -/

section
variable {m n : Nat} (x : BitVec m) (y : BitVec n)

theorem bitsAt_append_high {lo k : Nat} (h : n ≤ lo) : bitsAt (x ++ y) lo k = bitsAt x (lo - n) k :=
  BitVec.extractLsb'_append_eq_of_le h

theorem bitsAt_append_low {lo k : Nat} (h : lo + k ≤ n) : bitsAt (x ++ y) lo k = bitsAt y lo k :=
  BitVec.extractLsb'_append_eq_of_add_le h

@[simp] theorem bitsAt_whole : bitsAt x 0 m = x := BitVec.extractLsb'_eq_self

theorem bitAt_append_high {i : Nat} (h : n ≤ i) : bitAt (x ++ y) i = bitAt x (i - n) := by
  rw [bitAt, BitVec.getLsbD_append, if_neg (Nat.not_lt.2 h), bitAt]

theorem bitAt_append_low {i : Nat} (h : i < n) : bitAt (x ++ y) i = bitAt y i := by
  rw [bitAt, BitVec.getLsbD_append, if_pos h, bitAt]

@[simp] theorem bitAt_ofBool (b : Bool) : bitAt (BitVec.ofBool b) 0 = b := by cases b <;> rfl

/-- A flag is a field of one bit. -/
theorem ofBool_bitAt (i : Nat) : BitVec.ofBool (bitAt x i) = bitsAt x i 1 := by
  apply BitVec.eq_of_toNat_eq
  rw [BitVec.toNat_ofBool, bitAt, BitVec.getLsbD, Nat.toNat_testBit, bitsAt, BitVec.extractLsb'_toNat,
    Nat.shiftRight_eq_div_pow, Nat.pow_one]

/-- Neighbouring fields are one field. -/
theorem bitsAt_append_bitsAt {lo k hi l : Nat} (h : hi = lo + k) :
    bitsAt x hi l ++ bitsAt x lo k = bitsAt x lo (l + k) :=
  BitVec.extractLsb'_append_extractLsb'_eq_extractLsb' h

end

/-! ### The five words with fields (R83, R85, R87) -/

theorem rtpW0Seq_ofWord_toWord (f : RtpW0Seq) : RtpW0Seq.ofWord f.toWord = f := by
  simp (disch := decide) only [RtpW0Seq.ofWord, RtpW0Seq.toWord, bitsAt_append_high, bitsAt_append_low,
    bitAt_append_high, bitAt_append_low]
  simp only [Nat.reduceSub, bitsAt_whole, bitAt_ofBool]

theorem rtpExt_ofWord_toWord (f : RtpExt) : RtpExt.ofWord f.toWord = f := by
  simp (disch := decide) only [RtpExt.ofWord, RtpExt.toWord, bitsAt_append_high, bitsAt_append_low]
  simp only [Nat.reduceSub, bitsAt_whole]

theorem fecBaseLen_ofWord_toWord (f : FecBaseLen) : FecBaseLen.ofWord f.toWord = f := by
  simp (disch := decide) only [FecBaseLen.ofWord, FecBaseLen.toWord, bitsAt_append_high, bitsAt_append_low]
  simp only [Nat.reduceSub, bitsAt_whole]

theorem fecW1_ofWord_toWord (f : FecW1) : FecW1.ofWord f.toWord = f := by
  simp (disch := decide) only [FecW1.ofWord, FecW1.toWord, bitsAt_append_high, bitsAt_append_low, bitAt_append_high]
  simp only [Nat.reduceSub, bitsAt_whole, bitAt_ofBool]

theorem fecW2_ofWord_toWord (f : FecW2) : FecW2.ofWord f.toWord = f := by
  simp (disch := decide) only [FecW2.ofWord, FecW2.toWord, bitsAt_append_high, bitsAt_append_low, bitAt_append_high,
    bitAt_append_low]
  simp only [Nat.reduceSub, bitsAt_whole, bitAt_ofBool]

section
variable (w : U32)

theorem rtpW0Seq_toWord_ofWord : (RtpW0Seq.ofWord w).toWord = w := by
  simp (disch := rfl) only [RtpW0Seq.toWord, RtpW0Seq.ofWord, ofBool_bitAt, bitsAt_append_bitsAt]
  exact bitsAt_whole w

theorem rtpExt_toWord_ofWord : (RtpExt.ofWord w).toWord = w := by
  simp (disch := rfl) only [RtpExt.toWord, RtpExt.ofWord, bitsAt_append_bitsAt]
  exact bitsAt_whole w

theorem fecBaseLen_toWord_ofWord : (FecBaseLen.ofWord w).toWord = w := by
  simp (disch := rfl) only [FecBaseLen.toWord, FecBaseLen.ofWord, bitsAt_append_bitsAt]
  exact bitsAt_whole w

theorem fecW1_toWord_ofWord : (FecW1.ofWord w).toWord = w := by
  simp (disch := rfl) only [FecW1.toWord, FecW1.ofWord, ofBool_bitAt, bitsAt_append_bitsAt]
  exact bitsAt_whole w

theorem fecW2_toWord_ofWord : (FecW2.ofWord w).toWord = w := by
  simp (disch := rfl) only [FecW2.toWord, FecW2.ofWord, ofBool_bitAt, bitsAt_append_bitsAt]
  exact bitsAt_whole w

end

/-! ### The rows of one word (R51, R83 to R87) -/

theorem be32_bytes32 (w : U32) :
    be32 (w.extractLsb' 24 8) (w.extractLsb' 16 8) (w.extractLsb' 8 8) (w.extractLsb' 0 8) = w := by
  simp (disch := rfl) only [be32, BitVec.extractLsb'_append_extractLsb'_eq_extractLsb']
  exact BitVec.extractLsb'_eq_self

theorem decodeWord_bytes32 (mk : U32 → Instr) {w : U32} {i : Instr} (h : mk w = i) (rest : List Byte) :
    decodeWord mk (bytes32 w ++ rest) = .ok (i, rest) := by
  simp only [bytes32, List.cons_append, List.nil_append, decodeWord, be32_bytes32, h]

/-- What a row of one word decodes to is encoded as the four bytes that were decoded. -/
theorem encode_of_decodeWord (mk : U32 → Instr) {row : WireRow} {bytes rest : List Byte} {i : Instr}
    (hencode : ∀ w, encode (mk w) = bytes32 w) (hslot : ∀ w, (mk w).slot = .wire row)
    (h : decodeWord mk bytes = .ok (i, rest)) : encode i ++ rest = bytes ∧ i.slot = .wire row := by
  unfold decodeWord at h
  split at h
  · cases h
    exact ⟨by rw [hencode, bytes32_be32]; rfl, hslot _⟩
  · cases h

/-! ### The row FEC.ACCEPTED (R131) -/

/-- Four words are a header in the accepted profile when they are the words of its free fields. -/
theorem fecAccepted_ofWords?_eq_some {wBase w1 wTs w2 : U32} {f : FecAccepted} :
    FecAccepted.ofWords? wBase w1 wTs w2 = some f ↔
      wBase = FecBaseLen.toWord ⟨f.snBaseLow, f.lengthRecovery⟩ ∧ w1 = FecW1.toWord ⟨true, f.ptRecovery, 0⟩ ∧
      wTs = f.tsRecovery ∧ w2 = FecW2.toWord ⟨false, f.d, 0, 0, f.offset, f.na, 0⟩ := by
  constructor
  · intro h
    simp only [FecAccepted.ofWords?, Option.ite_none_right_eq_some, Option.some.injEq, Bool.and_eq_true, beq_iff_eq,
      Bool.not_eq_true'] at h
    obtain ⟨⟨⟨⟨⟨⟨he, hmask⟩, hx⟩, htype⟩, hindex⟩, hext⟩, rfl⟩ := h
    refine ⟨(fecBaseLen_toWord_ofWord wBase).symm, ?_, rfl, ?_⟩
    · conv_lhs => rw [← fecW1_toWord_ofWord w1]
      simp only [FecW1.toWord, he, hmask]
    · conv_lhs => rw [← fecW2_toWord_ofWord w2]
      simp only [FecW2.toWord, hx, htype, hindex, hext]
  · rintro ⟨rfl, rfl, rfl, rfl⟩
    simp [FecAccepted.ofWords?, fecBaseLen_ofWord_toWord, fecW1_ofWord_toWord, fecW2_ofWord_toWord]

theorem decodeAccepted_toBytes (f : FecAccepted) (rest : List Byte) :
    decodeAccepted (f.toBytes ++ rest) = .ok (.fecAccepted f, rest) := by
  have hwords := (fecAccepted_ofWords?_eq_some (f := f)).2 ⟨rfl, rfl, rfl, rfl⟩
  simp only [FecAccepted.toBytes, bytes32, List.cons_append, List.nil_append, decodeAccepted, be32_bytes32, hwords]

theorem decodeAccepted_eq_ok {bytes rest : List Byte} {i : Instr} (h : decodeAccepted bytes = .ok (i, rest)) :
    ∃ f, i = .fecAccepted f ∧ bytes = f.toBytes ++ rest := by
  unfold decodeAccepted at h
  split at h
  · split at h
    · rename_i f hwords
      cases h
      obtain ⟨hbase, hw1, hts, hw2⟩ := fecAccepted_ofWords?_eq_some.1 hwords
      exact ⟨f, rfl, by simp only [FecAccepted.toBytes, ← hbase, ← hw1, ← hts, ← hw2, bytes32_be32]; rfl⟩
    · cases h
  · cases h

/-! ### The status word (R82) -/

/-- The byte of a produced status decodes to its two parts. -/
theorem decodeStatus_statusWord {r : Bool} {code : BitVec 3} (h : statusProduced (statusWord r code) = true)
    (rest : List Byte) :
    decodeStatus (((0 : BitVec 4) ++ statusWord r code) :: rest) = .ok (.responseStatus r code, rest) := by
  have hword : bitsAt ((0 : BitVec 4) ++ statusWord r code) 0 4 = statusWord r code := by
    rw [bitsAt_append_low _ _ (by decide), bitsAt_whole]
  have hr : bitAt ((0 : BitVec 4) ++ statusWord r code) 3 = r := by
    rw [bitAt_append_low _ _ (by decide), statusWord, bitAt_append_high _ _ (by decide), bitAt_ofBool]
  have hcode : bitsAt ((0 : BitVec 4) ++ statusWord r code) 0 3 = code := by
    rw [bitsAt_append_low _ _ (by decide), statusWord, bitsAt_append_low _ _ (by decide), bitsAt_whole]
  rw [decodeStatus, hword, hr, hcode, if_pos h]

/-! ### All rows -/

/-- Settles O1: at each slot the decoder takes apart what the encoder put together. -/
theorem decodeOfEncode : Obligations.DecodeOfEncode := by
  intro i rest hwf
  have hcommand (hport : i.slot = .port) : decode i.slot (encode i ++ rest) = .ok (i, rest) := by
    rw [hport]
    exact decodePort_encode hport rest
  cases i with
  | read | enqData | enqFec | reserved3 | decRtp | decFec | seqdist | reserved7 => exact hcommand rfl
  | rtpTs => exact decodeWord_bytes32 .rtpTs rfl rest
  | rtpSsrc => exact decodeWord_bytes32 .rtpSsrc rfl rest
  | rtpCsrc k => exact decodeWord_bytes32 (.rtpCsrc k) rfl rest
  | fecTsrec => exact decodeWord_bytes32 .fecTsrec rfl rest
  | rtpW0Seq f => exact decodeWord_bytes32 (fun w => .rtpW0Seq (.ofWord w)) (congrArg _ (rtpW0Seq_ofWord_toWord f)) rest
  | rtpExt f => exact decodeWord_bytes32 (fun w => .rtpExt (.ofWord w)) (congrArg _ (rtpExt_ofWord_toWord f)) rest
  | fecBaseLen f =>
    exact decodeWord_bytes32 (fun w => .fecBaseLen (.ofWord w)) (congrArg _ (fecBaseLen_ofWord_toWord f)) rest
  | fecW1 f => exact decodeWord_bytes32 (fun w => .fecW1 (.ofWord w)) (congrArg _ (fecW1_ofWord_toWord f)) rest
  | fecW2 f => exact decodeWord_bytes32 (fun w => .fecW2 (.ofWord w)) (congrArg _ (fecW2_ofWord_toWord f)) rest
  | fecAccepted f => exact decodeAccepted_toBytes f rest
  | responseStatus r code => exact decodeStatus_statusWord hwf rest

/-- Settles O2: a row of one word decodes to the fields of that word, FEC.ACCEPTED to the free fields of four. -/
theorem encodeOfDecodedWireWord : Obligations.EncodeOfDecodedWireWord := by
  intro row bytes rest i h
  cases row with
  | rtpTs => exact encode_of_decodeWord .rtpTs (fun _ => rfl) (fun _ => rfl) h
  | rtpSsrc => exact encode_of_decodeWord .rtpSsrc (fun _ => rfl) (fun _ => rfl) h
  | rtpCsrc k => exact encode_of_decodeWord (.rtpCsrc k) (fun _ => rfl) (fun _ => rfl) h
  | fecTsrec => exact encode_of_decodeWord .fecTsrec (fun _ => rfl) (fun _ => rfl) h
  | rtpW0Seq =>
    exact encode_of_decodeWord (fun w => .rtpW0Seq (.ofWord w)) (fun w => congrArg bytes32 (rtpW0Seq_toWord_ofWord w))
      (fun _ => rfl) h
  | rtpExt =>
    exact encode_of_decodeWord (fun w => .rtpExt (.ofWord w)) (fun w => congrArg bytes32 (rtpExt_toWord_ofWord w))
      (fun _ => rfl) h
  | fecBaseLen =>
    exact encode_of_decodeWord (fun w => .fecBaseLen (.ofWord w))
      (fun w => congrArg bytes32 (fecBaseLen_toWord_ofWord w)) (fun _ => rfl) h
  | fecW1 =>
    exact encode_of_decodeWord (fun w => .fecW1 (.ofWord w)) (fun w => congrArg bytes32 (fecW1_toWord_ofWord w))
      (fun _ => rfl) h
  | fecW2 =>
    exact encode_of_decodeWord (fun w => .fecW2 (.ofWord w)) (fun w => congrArg bytes32 (fecW2_toWord_ofWord w))
      (fun _ => rfl) h
  | fecAccepted =>
    obtain ⟨f, rfl, rfl⟩ := decodeAccepted_eq_ok h
    exact ⟨rfl, rfl⟩

/-- Settles O3: the decoder computes each of these words. -/
theorem specWordsDecode : Obligations.SpecWordsDecode :=
  ⟨rfl, rfl, rfl, rfl, rfl, rfl, rfl, rfl, rfl, rfl, rfl, rfl, rfl, rfl⟩

/-! ### The step at the response port, and its row (R82) -/

theorem step_respond {s : State} {w : Status} (hlegal : s.params.legal = true) (hphase : s.phase = .respond w) :
    step s = respondStep w s := by
  simp only [step, hlegal, if_true, hphase]

/-- Settles O6: the byte that stands at the response port decodes to the row with its two parts. -/
theorem stepRunsStatusWord : Obligations.StepRunsStatusWord := by
  intro s r code hlegal hphase hproduced
  have hdecode := decodeStatus_statusWord hproduced []
  rw [step_respond hlegal hphase, respondStep, runAt, decode, hdecode]

theorem driveStatus_answeredOnly (w : Status) (s : State) :
    AnsweredOnly w (valueBeside w s.value) s (driveStatus w s) := by
  obtain ⟨hsame, hsurroundings⟩ := driveStatus_agree w s
  exact ⟨⟨driveStatus_response s w, (atBoundary_driveStatus s w).1, hsurroundings⟩, hsame⟩

theorem statusWord_msb (r : Bool) (code : BitVec 3) : (statusWord r code).msb = r := by
  rw [statusWord, BitVec.msb_append, if_neg (by decide), BitVec.msb_ofBool]

theorem statusWord_eq_notReady : ∀ code : BitVec 3, statusWord false code = 0b0011 ↔ code = 3 := by decide

/-- Settles O41: a produced code is driven with the value beside it. -/
theorem statusRow : Obligations.StatusRow := by
  intro r code s
  refine ⟨fun hproduced => ⟨driveStatus (statusWord r code) s, if_pos hproduced, ?_⟩,
    fun hnever => if_neg (by rw [hnever]; decide)⟩
  have hanswer := driveStatus_answeredOnly (statusWord r code) s
  rw [valueBeside, statusWord_msb] at hanswer
  refine ⟨?_, ?_, ?_⟩
  · rintro rfl
    exact hanswer
  · rintro rfl rfl
    exact hanswer
  · rintro rfl hcode
    rwa [if_neg Bool.false_ne_true, if_neg (mt (statusWord_eq_notReady code).1 hcode)] at hanswer

/-- Settles O8: both arms refuse before they look at the state. -/
theorem reservedCodesRefused : Obligations.ReservedCodesRefused := fun _ => ⟨rfl, rfl⟩

end Sys2Proof.Machine

/-! PROOFS. The status of a response: of which outcomes a command ends in one (R82), and which bytes decide that of
DEC.RTP (R90, R117, R118). -/

namespace Sys2Proof.Machine

/-! ### The answers of each command (R82) -/

/-- The state holds a response with one of these statuses. -/
def AnswersIn (statuses : List Status) (t : State) : Prop := ∃ r, t.response = some r ∧ r.status ∈ statuses

theorem AnswersIn.finish {statuses : List Status} {o : CmdOutcome} (h : o.status ∈ statuses) (s : State) :
    AnswersIn statuses (Machine.finish o s) := ⟨_, finish_response s o, h⟩

/-- What the two enqueues can answer: `Accepted`, `DuplicateIgnored` or a rejection. -/
def enqueueStatuses : List Status := [0b0000, 0b0001, 0b1000, 0b1001, 0b1010, 0b1011, 0b1100]

theorem reject_enqueueStatuses (r : Reason) (s : State) : AnswersIn enqueueStatuses (reject r s) :=
  .finish (by cases r <;> decide) s

theorem duplicate_enqueueStatuses (n : Nat) (s : State) :
    AnswersIn enqueueStatuses (finish (.duplicateIgnored n) s) :=
  .finish (show 0b0001 ∈ enqueueStatuses by decide) s

theorem accepted_enqueueStatuses (n : Nat) (s : State) : AnswersIn enqueueStatuses (finish (.accepted n) s) :=
  .finish (show 0b0000 ∈ enqueueStatuses by decide) s

theorem enqDataDecoded_answers (len : Nat) (s : State) : AnswersIn enqueueStatuses (enqDataDecoded len s) := by
  unfold enqDataDecoded
  dsimp only
  split
  · exact reject_enqueueStatuses _ _
  · split
    · exact reject_enqueueStatuses _ _
    · split
      · exact reject_enqueueStatuses _ _
      · exact duplicate_enqueueStatuses _ _
      · exact accepted_enqueueStatuses _ _

theorem enqData_answers (buf : List Byte) (s : State) : AnswersIn enqueueStatuses (enqData buf s) := by
  rw [enqData_eq]
  exact Decoded.thenCommand_of (fun _ => reject_enqueueStatuses _ _) (enqDataDecoded_answers _ _)

theorem enqFecParsed_answers (len : Nat) (p : Packet) (s : State) :
    AnswersIn enqueueStatuses (enqFecParsed len p s) := by
  unfold enqFecParsed
  dsimp only
  split
  · exact reject_enqueueStatuses _ _
  · split
    · exact duplicate_enqueueStatuses _ _
    · split
      · exact reject_enqueueStatuses _ _
      · exact duplicate_enqueueStatuses _ _
      · exact accepted_enqueueStatuses _ _

theorem enqFecDecoded_answers (len : Nat) (s : State) : AnswersIn enqueueStatuses (enqFecDecoded len s) := by
  rw [enqFecDecoded_eq]
  split
  · exact reject_enqueueStatuses _ _
  · split
    · exact reject_enqueueStatuses _ _
    · exact Decoded.thenCommand_of (fun _ => reject_enqueueStatuses _ _) (enqFecParsed_answers _ _ _)

theorem enqFec_answers (buf : List Byte) (s : State) : AnswersIn enqueueStatuses (enqFec buf s) := by
  rw [enqFec_eq]
  exact Decoded.thenCommand_of (fun _ => reject_enqueueStatuses _ _) (enqFecDecoded_answers _ _)

/-- The status that the closed form of `DEC.RTP` answers (R117). -/
def closedRtpStatus (buf : List Byte) : Status :=
  match closedRtp buf with
  | .ok _ => 0b0000
  | .error r => r.status

theorem closedRtpStatus_eq (buf : List Byte) :
    closedRtpStatus buf = if isTruncated buf then 0b1000 else if isMalformed buf then 0b1001 else 0b0000 := by
  unfold closedRtpStatus closedRtp
  cases isTruncated buf <;> cases isMalformed buf <;> rfl

theorem closedRtpStatus_mem (buf : List Byte) : closedRtpStatus buf ∈ ([0b0000, 0b1000, 0b1001] : List Status) := by
  rw [closedRtpStatus_eq]
  split
  · decide
  · split <;> decide

/-- `DEC.RTP` answers the status of the closed form, in any state. -/
theorem decRtp_answers (buf : List Byte) (s : State) : AnswersIn [closedRtpStatus buf] (decRtp buf s) := by
  rw [decRtp_eq]
  cases hclosed : closedRtp buf with
  | error r =>
    obtain ⟨t, ht, -⟩ := rtpDecode_of_error hclosed s
    rw [ht]
    exact AnswersIn.finish (o := .rejected r) (by simp [CmdOutcome.status, closedRtpStatus, hclosed]) t
  | ok p =>
    obtain ⟨t, ht, -, -⟩ := rtpDecode_of_ok hclosed s
    rw [ht]
    exact AnswersIn.finish (o := .ok _) (by simp [CmdOutcome.status, closedRtpStatus, hclosed]) t

theorem decFec_answers (buf : List Byte) (s : State) : AnswersIn [0b0000, 0b1000] (decFec buf s) := by
  rw [decFec_eq]
  obtain hlen | hlen := Nat.lt_or_ge buf.length 16
  · rw [fecDecode_of_short hlen]
    exact .finish (by decide) _
  · obtain ⟨t, ht, -, -⟩ := fecDecode_of_long hlen s
    rw [ht]
    exact .finish (List.mem_cons_self) _

/-- Settles O40: each command ends in one of its outcomes. -/
theorem statusesOfEachCommand : Obligations.StatusesOfEachCommand := by
  intro i s t hport h
  cases i with
  | read =>
    obtain rfl | ⟨e, rfl⟩ := execRead_cases h
    · exact AnswersIn.finish (by decide) s
    · exact AnswersIn.finish (o := .delivered e.payload) (List.mem_cons_self) _
  | enqData buf => exact next_of_withBuffer h ▸ enqData_answers buf s
  | enqFec buf => exact next_of_withBuffer h ▸ enqFec_answers buf s
  | decRtp buf =>
    obtain ⟨r, hr, hstatus⟩ := next_of_withBuffer h ▸ decRtp_answers buf s
    exact ⟨r, hr, List.mem_singleton.1 hstatus ▸ closedRtpStatus_mem buf⟩
  | decFec buf => exact next_of_withBuffer h ▸ decFec_answers buf s
  | seqdist a b =>
    cases h
    exact ⟨_, finish_response _ _, rfl⟩
  | reserved3 | reserved7 => cases h
  | _ => cases hport

/-! ### What the status of `DEC.RTP` depends on (R90, R118) -/

/-- The buffers agree in their length, in the low six bits of byte 0 and from offset 12 on. -/
def SameChecked (a b : List Byte) : Prop :=
  a.length = b.length ∧ (byteAt a 0).toNat % 64 = (byteAt b 0).toNat % 64 ∧ a.drop 12 = b.drop 12

section
variable {a b : List Byte} (h : SameChecked a b)
include h

theorem SameChecked.byteAt {i : Nat} (hi : 12 ≤ i) : byteAt a i = byteAt b i := by
  have hdrop (l : List Byte) : Machine.byteAt l i = (l.drop 12).getD (i - 12) 0 := by
    simp [Machine.byteAt, List.getD, show 12 + (i - 12) = i by omega]
  rw [hdrop, hdrop, h.2.2]

theorem SameChecked.value16 {i : Nat} (hi : 12 ≤ i) : value16 a i = value16 b i := by
  rw [Machine.value16, Machine.value16, h.byteAt hi, h.byteAt (by omega)]

theorem SameChecked.headCc : headCc a = headCc b := by
  obtain ⟨-, hlow, -⟩ := h
  simp only [Machine.headCc]
  omega

theorem SameChecked.headExt : headExt a = headExt b := by
  obtain ⟨-, hlow, -⟩ := h
  exact congrArg (· == 1) (by omega)

theorem SameChecked.headPad : headPad a = headPad b := by
  obtain ⟨-, hlow, -⟩ := h
  exact congrArg (· == 1) (by omega)

theorem SameChecked.headEnd : headEnd a = headEnd b := by rw [Machine.headEnd, Machine.headEnd, h.headCc]

theorem SameChecked.extLength : extLength a = extLength b := by
  rw [Machine.extLength, Machine.extLength, h.headEnd, h.value16 (by rw [Machine.headEnd]; omega)]

theorem SameChecked.isTruncated : isTruncated a = isTruncated b := by
  simp only [Machine.isTruncated, h.1, h.headEnd, h.headExt, h.extLength]

theorem SameChecked.rawLength : rawLength a = rawLength b := by
  simp only [Machine.rawLength, payloadStart, h.1, h.headEnd, h.headExt, h.extLength]

/-- Where there is a payload, the trim count stands in it, behind the fixed header. -/
theorem SameChecked.trimCount (hraw : Machine.rawLength b ≠ 0) : trimCount a = trimCount b := by
  have hlast : 12 ≤ b.length - 1 := by
    simp only [Machine.rawLength, payloadStart, Machine.headEnd] at hraw
    omega
  rw [Machine.trimCount, Machine.trimCount, h.headPad, h.1, h.byteAt hlast]

theorem SameChecked.isMalformed : isMalformed a = isMalformed b := by
  rw [Machine.isMalformed, Machine.isMalformed, h.headPad, h.rawLength]
  by_cases hraw : Machine.rawLength b = 0
  · rw [hraw]
    rfl
  · rw [h.trimCount hraw]

theorem SameChecked.closedRtpStatus : closedRtpStatus a = closedRtpStatus b := by
  rw [closedRtpStatus_eq, closedRtpStatus_eq, h.isTruncated, h.isMalformed]

end

/-- `DEC.RTP`, when it answers, answers the status of the closed form. -/
theorem exec_decRtp_status {buf : List Byte} {s t : State} {r : Response} (h : exec (.decRtp buf) s = .next t)
    (hr : t.response = some r) : r.status = closedRtpStatus buf := by
  obtain ⟨r', hr', hstatus⟩ := next_of_withBuffer h ▸ decRtp_answers buf s
  obtain rfl : r = r' := Option.some.inj (hr.symm.trans hr')
  exact List.mem_singleton.1 hstatus

/-- Settles O13: the closed form's status reads no other byte. -/
theorem uncheckedFieldsDecideNothing : Obligations.UncheckedFieldsDecideNothing := by
  intro buf₁ buf₂ s t₁ t₂ r₁ r₂ hlength hlow hdrop h₁ h₂ hr₁ hr₂
  have hsame : SameChecked buf₁ buf₂ := ⟨hlength, hlow, hdrop⟩
  rw [exec_decRtp_status h₁ hr₁, exec_decRtp_status h₂ hr₂, hsame.closedRtpStatus]

end Sys2Proof.Machine

/-! PROOFS. The wire rows of the RTP header (R111 to R113): the registers a word writes, what it leaves alone, and the
word that comes next. -/

namespace Sys2Proof.Machine

/-! ### The place after the identifiers `0 .. k-1` (R112, R113) -/

section
variable {k : Nat} {s : State}

theorem afterCsrcs_of_lt (h : k < s.pkt.cc.toNat) (hk : k < 15) :
    afterCsrcs k s = s.setPhase (.wire (.rtpCsrc ⟨k, hk⟩)) := dif_pos h

theorem afterCsrcs_extension (h : s.pkt.cc.toNat ≤ k) (hext : s.pkt.extension = true) :
    afterCsrcs k s = s.setPhase (.wire .rtpExt) := by
  rw [afterCsrcs, dif_neg (Nat.not_lt.2 h), if_pos hext]

theorem afterCsrcs_payload (h : s.pkt.cc.toNat ≤ k) (hext : s.pkt.extension = false) :
    afterCsrcs k s = (clearRtpExt s).setPhase .payload := by
  rw [afterCsrcs, dif_neg (Nat.not_lt.2 h), if_neg (by simp [hext])]

end

/-- Moving on writes the phase, and `pkt.ext` where no extension is to come. -/
theorem afterCsrcs_eq (k : Nat) (s : State) :
    afterCsrcs k s =
      (s.setPkt { s.pkt with
        ext := if s.pkt.cc.toNat ≤ k ∧ s.pkt.extension = false then none else s.pkt.ext }).setPhase
          (afterCsrcs k s).phase := by
  obtain hmore | hlast := Nat.lt_or_ge k s.pkt.cc.toNat
  · rw [afterCsrcs_of_lt hmore (by omega), if_neg fun h => Nat.not_le.2 hmore h.1]
    rfl
  · cases hext : s.pkt.extension with
    | true =>
      rw [afterCsrcs_extension hlast hext, if_neg fun h => Bool.noConfusion h.2]
      rfl
    | false =>
      rw [afterCsrcs_payload hlast hext, if_pos ⟨hlast, rfl⟩]
      rfl

@[simp] theorem afterCsrcs_pkt (k : Nat) (s : State) :
    (afterCsrcs k s).pkt =
      { s.pkt with ext := if s.pkt.cc.toNat ≤ k ∧ s.pkt.extension = false then none else s.pkt.ext } :=
  congrArg State.pkt (afterCsrcs_eq k s)

@[simp] theorem afterCsrcs_strm (k : Nat) (s : State) : (afterCsrcs k s).strm = s.strm := by
  rw [afterCsrcs_eq]
  rfl

@[simp] theorem afterCsrcs_fec (k : Nat) (s : State) : (afterCsrcs k s).fec = s.fec := by
  rw [afterCsrcs_eq]
  rfl

@[simp] theorem afterCsrcs_value (k : Nat) (s : State) : (afterCsrcs k s).value = s.value := by
  rw [afterCsrcs_eq]
  rfl

@[simp] theorem afterCsrcs_draws (k : Nat) (s : State) : (afterCsrcs k s).draws = s.draws := by
  rw [afterCsrcs_eq]
  rfl

/-! ### The rows -/

/-- Settles O14: each row is its latch; after RTP.SSRC the block is after no identifier yet. -/
theorem fixedHeaderRows : Obligations.FixedHeaderRows := by
  intro s
  refine ⟨fun f => ⟨_, rfl, rfl, rfl, rfl, rfl, rfl, rfl, .refl s⟩,
    fun v => ⟨_, rfl, rfl, rfl, rfl, rfl, rfl, rfl, .refl s⟩, fun v => ?_⟩
  have hcc : s.pkt.cc = 0 ↔ s.pkt.cc.toNat ≤ 0 := by
    rw [Nat.le_zero, ← BitVec.toNat_inj]
    rfl
  refine ⟨afterCsrcs 0 (latchRtpSsrc v s), rfl, ?_, afterCsrcs_strm _ _, afterCsrcs_fec _ _, afterCsrcs_value _ _,
    afterCsrcs_draws _ _, (setPkt_same s _).trans (afterCsrcs_same 0 _), fun hmore => ?_, fun hlast hext => ?_,
    fun hlast hext => ?_⟩
  · rw [afterCsrcs_pkt]
    simp only [hcc]
    rfl
  · rw [afterCsrcs_of_lt (s := latchRtpSsrc v s) hmore (by decide)]
    rfl
  · rw [afterCsrcs_extension (s := latchRtpSsrc v s) (hcc.1 hlast) hext]
    rfl
  · rw [afterCsrcs_payload (s := latchRtpSsrc v s) (hcc.1 hlast) hext]
    rfl

/-- Settles O15: the word is latched, and the block is after one identifier more. -/
theorem csrcRow : Obligations.CsrcRow := by
  intro i v s
  have hpkt := afterCsrcs_pkt (i.val + 1) (latchRtpCsrc i.val v s)
  refine ⟨afterCsrcs (i.val + 1) (latchRtpCsrc i.val v s), rfl, ?_, fun j hj => ?_, ?_, congrArg PktRegs.ext hpkt,
    afterCsrcs_strm _ _, afterCsrcs_fec _ _, afterCsrcs_value _ _, afterCsrcs_draws _ _,
    (setPkt_same s _).trans (afterCsrcs_same _ _), fun hmore => ?_, fun hlast => ?_⟩
  · rw [hpkt]
    exact Vector.getElem_setIfInBounds_self i.isLt
  · rw [hpkt]
    exact Vector.getElem_setIfInBounds_ne j.isLt fun h => hj (Fin.ext h.symm)
  · rw [hpkt]
    rfl
  · rw [afterCsrcs_of_lt (s := latchRtpCsrc i.val v s) hmore.1 hmore.2]
    rfl
  · cases hext : s.pkt.extension with
    | true =>
      rw [afterCsrcs_extension (s := latchRtpCsrc i.val v s) hlast hext]
      rfl
    | false =>
      rw [afterCsrcs_payload (s := latchRtpCsrc i.val v s) hlast hext]
      rfl

theorem rtpExtStep_tooLong {f : RtpExt} {s : State} (h : remaining s < f.length.toNat) :
    rtpExtStep f s = raiseAt .truncated s := by
  rw [rtpExtStep, latchRtpExt, if_pos h]

theorem rtpExtStep_fits {f : RtpExt} {s : State} (hlen : s.strm.len = s.strm.buf.length)
    (hpos : s.strm.pos ≤ s.strm.len) (h : f.length.toNat ≤ remaining s) :
    rtpExtStep f s =
      ((advance f.length.toNat s).setPkt { s.pkt with
        ext := some { id := f.id, length := f.length,
                      data := (s.strm.buf.drop s.strm.pos).take f.length.toNat } }).setPhase .payload := by
  have hfits : s.strm.pos + f.length.toNat ≤ s.strm.len := by
    rw [remaining] at h
    omega
  rw [rtpExtStep, latchRtpExt, if_neg (Nat.not_lt.2 h), rdbytes_inBounds hfits, map_memByte_range' (hlen ▸ hfits)]
  rfl

/-- Settles O16: the row is the extension step, with a length above or within what remains. -/
theorem extensionRow : Obligations.ExtensionRow := by
  intro f s hlen hpos
  refine ⟨rtpExtStep f s, rfl, rtpExtStep_same f s, ?_⟩
  obtain hlong | hfits := Nat.lt_or_ge (remaining s) f.length.toNat
  · rw [rtpExtStep_tooLong hlong]
    exact ⟨rfl, rfl, fun _ => ⟨rfl, rfl, rfl, rfl⟩, fun hfits => absurd hfits (Nat.not_le.2 hlong)⟩
  · rw [rtpExtStep_fits hlen hpos hfits]
    exact ⟨rfl, rfl, fun hlong => absurd hfits (Nat.not_le.2 hlong), fun _ => ⟨rfl, rfl, rfl, rfl⟩⟩

end Sys2Proof.Machine

/-! PROOFS. `DEC.RTP` as one command: its answer is the closed form's (R117), and the RTP rows run word by word reach
the state that it reaches (R110 to R115). -/

namespace Sys2Proof.Machine

/-! ### The answer of the closed form (R117) -/

/-- Whatever the command has decoded into, it ends with the outcome's response and no store written. -/
theorem AgreeForCommands.finish_answeredOnly {s u : State} (h : AgreeForCommands s u) (o : CmdOutcome) :
    AnsweredOnly o.status o.value s (Machine.finish o u) := by
  obtain ⟨hsame, hsurroundings⟩ := h.trans (finish_agree o u)
  exact ⟨⟨finish_response u o, (atBoundary_finish u o).1, hsurroundings⟩, hsame⟩

theorem decRtp_of_error {buf : List Byte} {r : Reason} (h : closedRtp buf = .error r) (s : State) :
    AnsweredOnly r.status (.count 0) s (decRtp buf s) := by
  obtain ⟨t, ht, hwrites⟩ := rtpDecode_of_error h s
  rw [decRtp_eq, ht]
  exact hwrites.agree.finish_answeredOnly (.rejected r)

theorem decRtp_of_ok {buf : List Byte} {p : Packet} (h : closedRtp buf = .ok p) (s : State) :
    AnsweredOnly 0b0000 (.packet p) s (decRtp buf s) := by
  obtain ⟨t, ht, rfl, hwrites⟩ := rtpDecode_of_ok h s
  rw [decRtp_eq, ht]
  exact hwrites.agree.finish_answeredOnly (.ok (.packet t.pkt.packet))

/-- Settles O11: the stream form decodes to the closed form's result, and the command answers with it. -/
theorem decRtpIsClosedForm : Obligations.DecRtpIsClosedForm := by
  intro buf s hlen
  refine ⟨decRtp buf s, if_pos hlen, ?_⟩
  split
  · exact decRtp_of_error (r := .truncated) (by rw [closedRtp, if_pos ‹_›]) s
  · split
    · exact decRtp_of_error (r := .malformed) (by rw [closedRtp, if_neg ‹_›, if_pos ‹_›]) s
    · exact decRtp_of_ok (by rw [closedRtp, if_neg ‹_›, if_neg ‹_›]) s

/-! ### Runs of a block with legal parameters -/

/-- A step that the block takes if its parameters are legal (R6). -/
def LegalStep (s t : State) : Prop := s.params.legal = true → step s = .next t

/-- A number of such steps. -/
abbrev LegalRun : State → State → Prop := Relation.ReflTransGen LegalStep

/-- The parameters stay legal, so a run from a legal state is a run of the machine. -/
theorem LegalRun.runSteps {s t : State} (h : LegalRun s t) (hlegal : s.params.legal = true) :
    ∃ k, runSteps k s = .next t := by
  induction h using Relation.ReflTransGen.head_induction_on with
  | refl => exact ⟨0, rfl⟩
  | head hfirst _ ih =>
    have hstep := hfirst hlegal
    obtain ⟨k, hk⟩ := ih ((step_storeStep hstep).1 ▸ hlegal)
    exact ⟨k + 1, (runSteps_succ_of_next hstep).trans hk⟩

/-! ### The reader and the decode steps do not look at the phase (log 4) -/

section
variable (s : State) (p : Phase)

theorem rd16_setPhase : rd16 (s.setPhase p) = Prod.map id (State.setPhase p) (rd16 s) := by
  simp only [rd16, apply_ite (Prod.map id (State.setPhase p))]
  rfl

theorem rd32_setPhase : rd32 (s.setPhase p) = Prod.map id (State.setPhase p) (rd32 s) := by
  simp only [rd32, apply_ite (Prod.map id (State.setPhase p))]
  rfl

theorem rdbytes_setPhase (n : Nat) : rdbytes n (s.setPhase p) = Prod.map id (State.setPhase p) (rdbytes n s) := by
  simp only [rdbytes, apply_ite (Prod.map id (State.setPhase p))]
  rfl

theorem rdPair_setPhase : rdPair (s.setPhase p) = Prod.map id (State.setPhase p) (rdPair s) := by
  simp only [rdPair, rd16_setPhase, Prod.map, id]

theorem fetchRow_setPhase (row : WireRow) :
    fetchRow row (s.setPhase p) = Prod.map id (State.setPhase p) (fetchRow row s) := by
  cases row <;> simp only [fetchRow, rdPair_setPhase, rd32_setPhase, Prod.map, id]

theorem rtpExtStep_setPhase (f : RtpExt) : rtpExtStep f (s.setPhase p) = rtpExtStep f s := by
  have hremaining : remaining (s.setPhase p) = remaining s := rfl
  simp only [rtpExtStep, latchRtpExt, hremaining, rdbytes_setPhase]
  by_cases hlong : f.length.toNat > remaining s
  · simp only [if_pos hlong]
    rfl
  · simp only [if_neg hlong]
    rfl

theorem payloadStep_setPhase : payloadStep (s.setPhase p) = payloadStep s := by
  have hremaining : remaining (s.setPhase p) = remaining s := rfl
  have hvalid (u : State) : valid (u.setPhase p) = valid u := rfl
  simp only [payloadStep, rtpPayload, hremaining, rdbytes_setPhase, Prod.map, id]
  generalize rdbytes (remaining s) s = raw
  by_cases hok : valid raw.2 = true
  · rw [if_pos hok, if_pos ((hvalid raw.2).trans hok), State.setPhase_pkt]
    cases paddingTrim raw.2.pkt.padding raw.1 <;> rfl
  · rw [if_neg hok, if_neg (by rwa [hvalid])]
    rfl

end

/-! ### The steps of the word-by-word decode (log 4) -/

/-- A row of one word is run on the word the decode reads, with the reader behind it. -/
theorem legalStep_word {row : WireRow} (mk : U32 → Instr) {w : U32} {s u t : State}
    (hrow : decodeRow row = decodeWord mk) (hfetch : fetchRow row s = (bytes32 w, u))
    (hexec : exec (mk w) (u.setPhase (.wire row)) = .next t) : LegalStep (s.setPhase (.wire row)) t := by
  intro hlegal
  have hword : decode (.wire row) (bytes32 w) = .ok (mk w, []) := by
    rw [decode, hrow]
    exact decodeWord_bytes32 mk rfl []
  rw [step_wire hlegal rfl, wireStep, fetchRow_setPhase, hfetch, runAt]
  simp only [Prod.map, id, hword, hexec]

/-- The three words of the fixed header (R111). -/
theorem legalRun_rtpFixedHeader (s : State) :
    LegalRun (s.setPhase (.wire .rtpW0Seq)) (afterCsrcs 0 (rtpFixedHeader s)) := by
  have hw0 (s : State) : LegalStep (s.setPhase (.wire .rtpW0Seq))
      ((latchRtpW0Seq (RtpW0Seq.ofWord (rdPair s).1) (rdPair s).2).setPhase (.wire .rtpTs)) :=
    legalStep_word (fun w => .rtpW0Seq (.ofWord w)) rfl rfl rfl
  have hts (s : State) : LegalStep (s.setPhase (.wire .rtpTs))
      ((latchRtpTs (rd32 s).1 (rd32 s).2).setPhase (.wire .rtpSsrc)) :=
    legalStep_word .rtpTs rfl rfl rfl
  have hssrc (s : State) : LegalStep (s.setPhase (.wire .rtpSsrc))
      (afterCsrcs 0 (latchRtpSsrc (rd32 s).1 (rd32 s).2)) :=
    legalStep_word .rtpSsrc rfl rfl rfl
  exact ((Relation.ReflTransGen.single (hw0 s)).tail (hts _)).tail (hssrc _)

/-- `n` identifiers more, from `i` on (R112). -/
theorem legalRun_rtpCsrcList {n i : Nat} {s : State} (hn : i + n = s.pkt.cc.toNat) :
    LegalRun (afterCsrcs i s) (afterCsrcs (i + n) (rtpCsrcList n i s)) := by
  induction n generalizing i s with
  | zero => exact .refl
  | succ n ih =>
    have hi : i < 15 := by omega
    have hword : LegalStep (afterCsrcs i s) (afterCsrcs (i + 1) (latchRtpCsrc i (rd32 s).1 (rd32 s).2)) := by
      rw [afterCsrcs_of_lt (by omega) hi]
      exact legalStep_word (.rtpCsrc ⟨i, hi⟩) rfl rfl rfl
    have hrest : i + 1 + n = (latchRtpCsrc i (rd32 s).1 (rd32 s).2).pkt.cc.toNat := by
      show i + 1 + n = (rd32 s).2.pkt.cc.toNat
      rw [rd32_pkt]
      omega
    rw [← Nat.add_assoc, Nat.add_right_comm]
    exact .head hword (ih hrest)

/-- A step of the word-by-word decode: a raised reason stands next (log 4), otherwise `k` goes on. -/
def Decoded.thenWord (d : Decoded) (k : State → State) : State :=
  match d with
  | .done s => k s
  | .raised r s => raiseAt r s

theorem rtpExtStep_eq (f : RtpExt) (s : State) :
    rtpExtStep f s = (latchRtpExt f s).thenWord (State.setPhase .payload) := by
  unfold rtpExtStep
  cases latchRtpExt f s <;> rfl

theorem payloadStep_eq (s : State) :
    payloadStep s = (rtpPayload s).thenWord (fun t => returnAt (.packet t.pkt.packet) t) := by
  unfold payloadStep
  cases rtpPayload s <;> rfl

/-- After the last identifier: the two extension words, or none (R113). -/
theorem legalRun_rtpExtension {k : Nat} {s : State} (hlast : s.pkt.cc.toNat ≤ k) :
    LegalRun (afterCsrcs k s) ((rtpExtension s).thenWord (State.setPhase .payload)) := by
  cases hext : s.pkt.extension with
  | true =>
    rw [afterCsrcs_extension hlast hext, rtpExtension, if_pos hext, ← rtpExtStep_eq]
    refine .single (legalStep_word (fun w => .rtpExt (.ofWord w)) rfl rfl ?_)
    exact congrArg Host.Outcome.next (rtpExtStep_setPhase _ _ _)
  | false =>
    rw [afterCsrcs_payload hlast hext, rtpExtension, if_neg (by simp [hext])]
    exact .refl

/-- The payload step (R114, R115). -/
theorem legalStep_payload (s : State) :
    LegalStep (s.setPhase .payload) ((rtpPayload s).thenWord (fun t => returnAt (.packet t.pkt.packet) t)) := by
  intro hlegal
  rw [step, if_pos hlegal, ← payloadStep_eq, ← payloadStep_setPhase s .payload]
  rfl

/-! ### The response at the end (R82) -/

theorem exists_statusWord : ∀ w : Status, ∃ r code, w = statusWord r code := by decide

/-- The step at the response port drives the status, whatever the phase was before. -/
theorem legalStep_respond {w : Status} (hproduced : statusProduced w = true) (s : State) :
    LegalStep (s.setPhase (.respond w)) (driveStatus w s) := by
  intro hlegal
  obtain ⟨r, code, rfl⟩ := exists_statusWord w
  rw [stepRunsStatusWord _ _ _ hlegal rfl hproduced]
  exact if_pos hproduced

theorem legalStep_raiseAt (r : Reason) (s : State) : LegalStep (raiseAt r s) (reject r s) :=
  legalStep_respond (by cases r <;> rfl) (s.setValue (.count 0))

theorem legalStep_returnAt (v : Value) (s : State) : LegalStep (returnAt v s) (finish (.ok v) s) :=
  legalStep_respond rfl (s.setValue v)

/-! ### The whole decode -/

/-- Where going on word by word reaches what the command goes on with, so does the step with both its ends. -/
theorem Decoded.legalRun_thenCommand {k f : State → State} (h : ∀ t, LegalRun (k t) (f t)) (d : Decoded) :
    LegalRun (d.thenWord k) (d.thenCommand f) := by
  cases d with
  | done t => exact h t
  | raised r t => exact .single (legalStep_raiseAt r t)

theorem Decoded.andThen_thenCommand (d : Decoded) (g : State → Decoded) (f : State → State) :
    (d.andThen g).thenCommand f = d.thenCommand (fun t => (g t).thenCommand f) := by
  cases d <;> rfl

theorem legalRun_rtpPayload (s : State) :
    LegalRun (s.setPhase .payload) ((rtpPayload s).thenCommand (fun t => finish (.ok (.packet t.pkt.packet)) t)) :=
  .head (legalStep_payload s) (Decoded.legalRun_thenCommand (fun t => .single (legalStep_returnAt _ t)) _)

/-- The RTP rows, run from the first word of a buffer, end in the state of `DEC.RTP`. -/
theorem legalRun_decRtp (buf : List Byte) (s : State) : LegalRun (placeWord .rtpW0Seq buf s) (decRtp buf s) := by
  rw [decRtp_eq, rtpDecode_eq, Decoded.andThen_thenCommand]
  have hfixed := legalRun_rtpFixedHeader (openStream buf s)
  generalize rtpFixedHeader (openStream buf s) = s1 at hfixed ⊢
  have hlist := legalRun_rtpCsrcList (Nat.zero_add s1.pkt.cc.toNat)
  have hcc : (rtpCsrcList s1.pkt.cc.toNat 0 s1).pkt.cc.toNat ≤ 0 + s1.pkt.cc.toNat := by
    rw [rtpCsrcList_pkt, Nat.zero_add]
  exact ((hfixed.trans hlist).trans (legalRun_rtpExtension hcc)).trans
    (Decoded.legalRun_thenCommand legalRun_rtpPayload _)

/-- Settles O12: word for word and at its end the run does what the command does. -/
theorem wordByWordIsDecRtp : Obligations.WordByWordIsDecRtp := by
  intro buf s hlegal hlen
  obtain ⟨k, hk⟩ := (legalRun_decRtp buf s).runSteps hlegal
  exact ⟨k, decRtp buf s, if_pos hlen, hk⟩

end Sys2Proof.Machine

/-! PROOFS. `DEC.FEC` as one command (R130), its four words run one after another, and the row FEC.ACCEPTED, which is
the header in the profile of R131 met at once. -/

namespace Sys2Proof.Machine

/-! ### The answer of the command (R130) -/

/-- Settles O17: below sixteen bytes the decode raises at once, otherwise it is done with the header of the bytes. -/
theorem decFecResult : Obligations.DecFecResult := by
  intro buf s hlen
  refine ⟨decFec buf s, if_pos hlen, ?_⟩
  rw [decFec_eq]
  split
  · rw [fecDecode_of_short ‹_›]
    exact finish_answeredOnly s (.rejected .truncated)
  · obtain ⟨t, hdone, hfec, hwrites⟩ := fecDecode_of_long (Nat.not_lt.1 ‹_›) s
    rw [hdone, ← hfec]
    exact hwrites.agree.finish_answeredOnly (.ok (.fecHeader t.fec))

/-! ### The end of a decode that goes word by word (log 4) -/

/-- The outcome stands at the response port. `raiseAt` and `returnAt` are its two cases. -/
def answerNext (o : CmdOutcome) (s : State) : State := (s.setValue o.value).setPhase (.respond o.status)

theorem raiseAt_eq (r : Reason) (s : State) : raiseAt r s = answerNext (.rejected r) s := rfl

theorem returnAt_eq (v : Value) (s : State) : returnAt v s = answerNext (.ok v) s := rfl

theorem statusProduced_outcome (o : CmdOutcome) : statusProduced o.status = true := by
  cases o with
  | rejected r => cases r <;> rfl
  | _ => rfl

theorem legalStep_answerNext (o : CmdOutcome) (s : State) : LegalStep (answerNext o s) (finish o s) :=
  legalStep_respond (statusProduced_outcome o) (s.setValue o.value)

/-- What the registers `fec.*` and the flag say after the last FEC word (R130). -/
def headerOutcome (s : State) : CmdOutcome := if valid s then .ok (.fecHeader s.fec) else .rejected .truncated

theorem headerOutcome_of_ok {s : State} (h : s.strm.ok = true) : headerOutcome s = .ok (.fecHeader s.fec) := if_pos h

theorem headerOutcome_of_not_ok {s : State} (h : s.strm.ok = false) : headerOutcome s = .rejected .truncated :=
  if_neg (by rw [valid, h]; decide)

theorem afterFecHeader_eq (s : State) : afterFecHeader s = answerNext (headerOutcome s) s := by
  unfold afterFecHeader headerOutcome
  split
  · exact returnAt_eq _ _
  · exact raiseAt_eq _ _

/-! ### The rows (R87, R130) -/

section
variable (s : State)

@[simp] theorem afterFecHeader_fec : (afterFecHeader s).fec = s.fec := by rw [afterFecHeader_eq]; rfl
@[simp] theorem afterFecHeader_pkt : (afterFecHeader s).pkt = s.pkt := by rw [afterFecHeader_eq]; rfl
@[simp] theorem afterFecHeader_strm : (afterFecHeader s).strm = s.strm := by rw [afterFecHeader_eq]; rfl
@[simp] theorem afterFecHeader_draws : (afterFecHeader s).draws = s.draws := by rw [afterFecHeader_eq]; rfl

end

/-- After a write of the registers `fec.*`, the end of the header writes the value and the phase, as the flag has it. -/
theorem afterFecHeader_setFec (h : FecHeader) (s : State) :
    let t := afterFecHeader (s.setFec h)
    t.pkt = s.pkt ∧ t.strm = s.strm ∧ t.draws = s.draws ∧ SameOutsideDecode s t ∧
      (s.strm.ok = true → t.phase = .respond 0b0000 ∧ t.value = .fecHeader t.fec) ∧
      (s.strm.ok = false → t.phase = .respond 0b1000 ∧ t.value = .count 0) := by
  refine ⟨afterFecHeader_pkt _, afterFecHeader_strm _, afterFecHeader_draws _,
    (setFec_same s h).trans (afterFecHeader_same _), fun hok => ?_, fun hoff => ?_⟩
  · rw [afterFecHeader_fec, afterFecHeader_eq, headerOutcome_of_ok (s := s.setFec h) hok]
    exact ⟨rfl, rfl⟩
  · rw [afterFecHeader_eq, headerOutcome_of_not_ok (s := s.setFec h) hoff]
    exact ⟨rfl, rfl⟩

/-- Settles O19: each row is its latch, and FEC.W2 ends the header. -/
theorem fecRows : Obligations.FecRows := by
  intro s
  exact ⟨fun _ => ⟨_, rfl, rfl, rfl, rfl, rfl, rfl, rfl, .refl s⟩,
    fun _ => ⟨_, rfl, rfl, rfl, rfl, rfl, rfl, rfl, .refl s⟩,
    fun _ => ⟨_, rfl, rfl, rfl, rfl, rfl, rfl, rfl, .refl s⟩,
    fun _ => ⟨_, rfl, afterFecHeader_fec _, afterFecHeader_setFec _ s⟩⟩

/-! ### The four words one after another (R130) -/

/-- A run of `k` steps that the block takes if its parameters are legal (R6). -/
def LegalSteps (k : Nat) (s t : State) : Prop := s.params.legal = true → runSteps k s = .next t

theorem LegalSteps.refl (s : State) : LegalSteps 0 s s := fun _ => rfl

theorem LegalStep.then {k : Nat} {s t u : State} (h : LegalStep s t) (hrest : LegalSteps k t u) :
    LegalSteps (k + 1) s u := by
  intro hlegal
  have hstep := h hlegal
  exact (runSteps_succ_of_next hstep).trans (hrest ((step_storeStep hstep).1 ▸ hlegal))

/-- The FEC rows and the status word, run from the first word of a buffer. -/
theorem legalSteps_fecWords (s : State) :
    LegalSteps 5 (s.setPhase (.wire .fecBaseLen)) (finish (headerOutcome (fecWords s)) (fecWords s)) := by
  have hbase (s : State) : LegalStep (s.setPhase (.wire .fecBaseLen))
      ((latchFecBaseLen (FecBaseLen.ofWord (rdPair s).1) (rdPair s).2).setPhase (.wire .fecW1)) :=
    legalStep_word (fun w => .fecBaseLen (.ofWord w)) rfl rfl rfl
  have hw1 (s : State) : LegalStep (s.setPhase (.wire .fecW1))
      ((latchFecW1 (FecW1.ofWord (rd32 s).1) (rd32 s).2).setPhase (.wire .fecTsrec)) :=
    legalStep_word (fun w => .fecW1 (.ofWord w)) rfl rfl rfl
  have hts (s : State) : LegalStep (s.setPhase (.wire .fecTsrec))
      ((latchFecTsrec (rd32 s).1 (rd32 s).2).setPhase (.wire .fecW2)) :=
    legalStep_word .fecTsrec rfl rfl rfl
  have hw2 (s : State) : LegalStep (s.setPhase (.wire .fecW2))
      (answerNext (headerOutcome (latchFecW2 (FecW2.ofWord (rd32 s).1) (rd32 s).2))
        (latchFecW2 (FecW2.ofWord (rd32 s).1) (rd32 s).2)) := by
    rw [← afterFecHeader_eq]
    exact legalStep_word (fun w => .fecW2 (.ofWord w)) rfl rfl rfl
  exact (hbase s).then ((hw1 _).then ((hts _).then ((hw2 _).then ((legalStep_answerNext _ _).then (.refl _)))))

/-- The flag says whether all that was asked for was there (R53, R54). -/
theorem Asked.strm_ok {buf : List Byte} {n : Nat} {x : Stream} (h : Asked buf n x) (hn : n ≤ buf.length) :
    x.ok = true := by rw [h.inside hn]

theorem Asked.fecWords {buf : List Byte} {s : State} (h : Asked buf 0 s.strm) :
    Asked buf 16 (Machine.fecWords s).strm := by
  have h1 : Asked buf 4 (latchFecBaseLen (FecBaseLen.ofWord (Machine.rdPair s).1) (Machine.rdPair s).2).strm :=
    h.rdPair
  unfold Machine.fecWords
  dsimp only
  generalize latchFecBaseLen (FecBaseLen.ofWord (Machine.rdPair s).1) (Machine.rdPair s).2 = s1 at h1 ⊢
  have h2 : Asked buf 8 (latchFecW1 (FecW1.ofWord (Machine.rd32 s1).1) (Machine.rd32 s1).2).strm := h1.rd32
  generalize latchFecW1 (FecW1.ofWord (Machine.rd32 s1).1) (Machine.rd32 s1).2 = s2 at h2 ⊢
  have h3 : Asked buf 12 (latchFecTsrec (Machine.rd32 s2).1 (Machine.rd32 s2).2).strm := h2.rd32
  generalize latchFecTsrec (Machine.rd32 s2).1 (Machine.rd32 s2).2 = s3 at h3 ⊢
  exact h3.rd32

/-- Settles O18: the rows latch what the command latches; the flag after them is the command's test of the length. -/
theorem wordByWordIsDecFec : Obligations.WordByWordIsDecFec := by
  intro buf s hlegal hlen
  have hrun : runSteps 5 (placeWord .fecBaseLen buf s) = .next _ := legalSteps_fecWords (openStream buf s) hlegal
  have hasked := (asked_openStream buf s).fecWords
  refine ⟨fun hlong => ?_, fun hshort => ⟨_, hrun, ?_⟩⟩
  · have hdone : fecDecode buf s = .done (fecWords (openStream buf s)) := if_neg (Nat.not_lt.2 hlong)
    rw [hrun, headerOutcome_of_ok (hasked.strm_ok hlong), exec, execDecFec, if_pos hlen, decFec_eq, hdone]
    rfl
  · rw [headerOutcome_of_not_ok (hasked.ranOff hshort).1]
    exact ((DecodeWrites.openStream buf s).trans (fecWords_writes _)).agree.finish_answeredOnly (.rejected .truncated)

/-! ### The row FEC.ACCEPTED by the bytes of the header (R87, R131) -/

/-- The fields that the profile leaves free (R131). -/
def FecHeader.freeFields (h : FecHeader) : FecAccepted :=
  { snBaseLow := h.snBaseLow, lengthRecovery := h.lengthRecovery, ptRecovery := h.ptRecovery,
    tsRecovery := h.tsRecovery, d := h.d, offset := h.offset, na := h.na }

theorem fecProfile_iff (h : FecHeader) :
    fecProfile h = true ↔
      h.e = true ∧ h.mask = 0 ∧ h.x = false ∧ h.type = 0 ∧ h.index = 0 ∧ h.snBaseExt = 0 := by
  simp only [fecProfile, Bool.and_eq_true, Bool.not_eq_true', beq_iff_eq]
  tauto

/-- The profile fixes the other six. -/
theorem header_freeFields {h : FecHeader} (hprofile : fecProfile h = true) :
    FecAccepted.header h.freeFields = h := by
  cases h
  obtain ⟨rfl, rfl, rfl, rfl, rfl, rfl⟩ := (fecProfile_iff _).1 hprofile
  rfl

theorem fecProfile_header (f : FecAccepted) : fecProfile (FecAccepted.header f) = true := rfl

theorem fecAccepted_ofWords?_value32 (buf : List Byte) :
    FecAccepted.ofWords? (BitVec.ofNat 32 (value32 buf 0)) (BitVec.ofNat 32 (value32 buf 4))
        (BitVec.ofNat 32 (value32 buf 8)) (BitVec.ofNat 32 (value32 buf 12)) =
      if fecProfile (closedFecHeader buf) = true then some (closedFecHeader buf).freeFields else none := by
  rw [FecAccepted.ofWords?, fecBaseLen_ofWord, fecW1_ofWord, fecW2_ofWord]
  refine if_congr ?_ rfl rfl
  rw [fecProfile_iff]
  simp only [Bool.and_eq_true, Bool.not_eq_true', beq_iff_eq, and_assoc]

theorem be32_byteAt (buf : List Byte) (n : Nat) :
    be32 (byteAt buf n) (byteAt buf (n + 1)) (byteAt buf (n + 2)) (byteAt buf (n + 3)) =
      BitVec.ofNat 32 (value32 buf n) := by
  apply BitVec.eq_of_toNat_eq
  rw [be32_toNat, BitVec.toNat_ofNat, Nat.mod_eq_of_lt (value32_lt _ _), value32]

theorem drop_eq_byteAt_cons {buf : List Byte} {n : Nat} (h : n < buf.length) :
    buf.drop n = byteAt buf n :: buf.drop (n + 1) := by
  rw [List.drop_eq_getElem_cons h, byteAt, List.getD_eq_getElem _ _ h]

/-- The bytes from `n` on begin with the word at `n` (R51). -/
theorem drop_eq_word_append {buf : List Byte} {n : Nat} (h : n + 4 ≤ buf.length) :
    buf.drop n = bytes32 (BitVec.ofNat 32 (value32 buf n)) ++ buf.drop (n + 4) := by
  rw [← be32_byteAt, bytes32_be32, drop_eq_byteAt_cons (by omega), drop_eq_byteAt_cons (by omega),
    drop_eq_byteAt_cons (by omega), drop_eq_byteAt_cons (by omega)]
  rfl

theorem decodeAccepted_words (w0 w1 w2 w3 : U32) (rest : List Byte) :
    decodeAccepted (bytes32 w0 ++ (bytes32 w1 ++ (bytes32 w2 ++ (bytes32 w3 ++ rest)))) =
      (FecAccepted.ofWords? w0 w1 w2 w3).elim (.error .outsideProfile) fun f => .ok (.fecAccepted f, rest) := by
  simp only [bytes32, List.cons_append, List.nil_append, decodeAccepted, be32_bytes32]
  cases FecAccepted.ofWords? w0 w1 w2 w3 <;> rfl

/-- Sixteen bytes or more are the row exactly when their header is in the profile (R131). -/
theorem decodeAccepted_of_long {bytes : List Byte} (h : 16 ≤ bytes.length) :
    decodeAccepted bytes =
      if fecProfile (closedFecHeader bytes) = true
      then .ok (.fecAccepted (closedFecHeader bytes).freeFields, bytes.drop 16) else .error .outsideProfile := by
  have h0 : bytes.drop 0 = _ := drop_eq_word_append (by omega)
  have h4 : bytes.drop 4 = _ := drop_eq_word_append (by omega)
  have h8 : bytes.drop 8 = _ := drop_eq_word_append (by omega)
  have h12 : bytes.drop 12 = _ := drop_eq_word_append (by omega)
  calc decodeAccepted bytes
    _ = decodeAccepted (bytes.drop 0) := rfl
    _ = _ := by
      rw [h0, h4, h8, h12, decodeAccepted_words, fecAccepted_ofWords?_value32, apply_ite (Option.elim · _ _)]
      rfl

/-- What decodes at the row is the header of its bytes. -/
theorem header_of_decodeAccepted {bytes rest : List Byte} {i : Instr} (h : decodeAccepted bytes = .ok (i, rest)) :
    ∃ f, i = .fecAccepted f ∧ FecAccepted.header f = closedFecHeader bytes := by
  have hlong : 16 ≤ bytes.length := by
    obtain ⟨f, -, rfl⟩ := decodeAccepted_eq_ok h
    rw [List.length_append]
    exact Nat.le_add_right 16 _
  rw [decodeAccepted_of_long hlong] at h
  split at h
  · cases h
    exact ⟨_, rfl, header_freeFields ‹_›⟩
  · cases h

/-- Settles O20: the row is met exactly in the profile, and run it ends the header. -/
theorem acceptedRowIsTheProfile : Obligations.AcceptedRowIsTheProfile := by
  refine ⟨fun bytes hlong => ?_, fun bytes rest i s hdecode hok => ?_, fun f s => ?_⟩
  · rw [decode, decodeRow, decodeAccepted_of_long hlong]
    split
    · exact iff_of_true ⟨_, _, rfl⟩ ‹_›
    · exact iff_of_false nofun ‹_›
  · obtain ⟨f, rfl, hheader⟩ := header_of_decodeAccepted hdecode
    obtain ⟨hpkt, hstrm, hdraws, hsame, hends, -⟩ := afterFecHeader_setFec (FecAccepted.header f) s
    obtain ⟨hphase, hvalue⟩ := hends hok
    have hfec := (afterFecHeader_fec (s.setFec (FecAccepted.header f))).trans hheader
    exact ⟨_, rfl, hfec, hphase, hfec ▸ hvalue, hpkt, hstrm, hdraws, hsame⟩
  · have hends := afterFecHeader_setFec (FecAccepted.header f) s
    have hfec := afterFecHeader_fec (s.setFec (FecAccepted.header f))
    refine ⟨afterFecHeader (s.setFec (FecAccepted.header f)), rfl, ?_⟩
    rw [hfec]
    exact ⟨rfl, rfl, rfl, rfl, rfl, rfl, rfl, fecProfile_header f, hfec ▸ hends⟩

/-! ### The row FEC.ACCEPTED over a buffer (R164, log 4) -/

theorem Asked.fetchRow_fecAccepted {buf : List Byte} {s : State} (h : Asked buf 0 s.strm) :
    Asked buf 16 (fetchRow .fecAccepted s).2.strm := by
  have h3 : Asked buf 12 (Machine.rd32 (Machine.rd32 (Machine.rdPair s).2).2).2.strm := h.rdPair.rd32.rd32
  exact h3.rd32

/-- What the row is answered with, whether or not its sixteen bytes are in the profile (R130, R164). -/
def acceptedOutcome (h : FecHeader) (ok : Bool) : CmdOutcome :=
  if ok then if fecProfile h then .ok (.fecHeader h) else .rejected .unsupportedProfile else .rejected .truncated

theorem afterFecHeader_setFec_eq {h : FecHeader} (hprofile : fecProfile h = true) (s : State) :
    afterFecHeader (s.setFec h) = answerNext (acceptedOutcome h s.strm.ok) (s.setFec h) := by
  rw [afterFecHeader_eq, headerOutcome, acceptedOutcome, if_pos hprofile, valid, State.setFec_strm, State.setFec_fec]

theorem notAccepted_eq {h : FecHeader} (hprofile : ¬ fecProfile h = true) (s : State) :
    notAccepted s = answerNext (acceptedOutcome h s.strm.ok) s := by
  rw [notAccepted, acceptedOutcome, if_neg hprofile, valid]
  cases s.strm.ok <;> rfl

/-- Whatever the sixteen bytes are, read or drawn, the step at the row ends in its answer. -/
theorem legalStep_fecAccepted (s : State) :
    ∃ u, DecodeWrites s u ∧ LegalStep (s.setPhase (.wire .fecAccepted)) (answerNext
      (acceptedOutcome (closedFecHeader (fetchRow .fecAccepted s).1) (fetchRow .fecAccepted s).2.strm.ok) u) := by
  have hwrites := fetchRow_writes .fecAccepted s
  have hstep (hlegal : s.params.legal = true) : step (s.setPhase (.wire .fecAccepted)) = _ :=
    step_wire hlegal rfl
  have hdecode : decode (.wire .fecAccepted) (fetchRow .fecAccepted s).1 = _ :=
    decodeAccepted_of_long (bytes := (fetchRow .fecAccepted s).1) (Nat.le_refl 16)
  simp only [wireStep, fetchRow_setPhase, Prod.map, id, runAt] at hstep
  generalize fetchRow .fecAccepted s = r at hwrites hstep hdecode ⊢
  rw [hdecode] at hstep
  by_cases hprofile : fecProfile (closedFecHeader r.1) = true
  · refine ⟨r.2.setFec (closedFecHeader r.1), hwrites.trans (.setFec _ _), fun hlegal => ?_⟩
    rw [hstep hlegal, if_pos hprofile, ← afterFecHeader_setFec_eq hprofile, ← header_freeFields hprofile]
    rfl
  · refine ⟨r.2, hwrites, fun hlegal => ?_⟩
    rw [hstep hlegal, if_neg hprofile, ← notAccepted_eq hprofile]
    rfl

theorem byteAt_take {buf : List Byte} {n i : Nat} (h : i < n) : byteAt (buf.take n) i = byteAt buf i := by
  simp only [byteAt, List.getD, List.getElem?_take, if_pos h]

/-- The header is in the first sixteen bytes (R87). -/
theorem closedFecHeader_take (buf : List Byte) : closedFecHeader (buf.take 16) = closedFecHeader buf := by
  simp (disch := decide) only [closedFecHeader, value16, value32, byteAt_take]

/-- In bounds the row takes the bytes of the buffer. -/
theorem fetchRow_fecAccepted_openStream {buf : List Byte} (h : 16 ≤ buf.length) (s : State) :
    (fetchRow .fecAccepted (openStream buf s)).1 = buf.take 16 := by
  have hbytes : 0 + 16 ≤ buf.length := by omega
  rw [fetchRow_fecAccepted (s := openStream buf s) hbytes]
  exact map_memByte_range' (s := openStream buf s) hbytes

/-- Settles O21: a short buffer leaves the flag down whatever was drawn, another has the header of its bytes. -/
theorem acceptedRowOverABuffer : Obligations.AcceptedRowOverABuffer := by
  intro buf s hlegal
  obtain ⟨u, hwrites, hstep⟩ := legalStep_fecAccepted (openStream buf s)
  have hasked := (asked_openStream buf s).fetchRow_fecAccepted
  have hanswer := ((DecodeWrites.openStream buf s).trans hwrites).agree.finish_answeredOnly
  refine ⟨_, hstep.then ((legalStep_answerNext _ _).then (.refl _)) hlegal, ?_⟩
  split
  · rw [(hasked.ranOff ‹_›).1]
    exact hanswer (.rejected .truncated)
  · have hlong : 16 ≤ buf.length := Nat.not_lt.1 ‹_›
    rw [hasked.strm_ok hlong, fetchRow_fecAccepted_openStream hlong, closedFecHeader_take, acceptedOutcome, if_pos rfl]
    split
    · exact hanswer (.ok (.fecHeader (closedFecHeader buf)))
    · exact hanswer (.rejected .unsupportedProfile)

end Sys2Proof.Machine

/-! PROOFS. The last number that a FEC header protects (R132), and what its distance to the cursor says of all of them
(R133). -/

namespace Sys2Proof.Machine

/-- The number `x` steps from `a`, for any integer `x`, is `x` further from `c`, while that can be represented. -/
theorem dist_add_ofInt {a c : SeqNum} {x : Int} (hlo : -32768 ≤ dist a c + x) (hhi : dist a c + x ≤ 32767) :
    dist (a + BitVec.ofInt 16 x) c = dist a c + x := by
  have hsum : a + BitVec.ofInt 16 x - c = (a - c) + BitVec.ofInt 16 x := by ring
  rw [dist_eq_toInt] at hlo hhi
  rw [dist_eq_toInt, dist_eq_toInt, hsum, BitVec.toInt_add, BitVec.toInt_ofInt, Int.add_bmod_bmod,
    Int.bmod_eq_of_le] <;> omega

theorem dist_le (a c : SeqNum) : dist a c ≤ 32767 := by
  rw [dist_eq_toInt]
  have := BitVec.toInt_lt (x := a - c)
  omega

theorem fecLast_toNat (h : FecHeader) :
    ((fecLast h).toNat : Int) = ((h.snBaseLow.toNat : Int) + h.offset.toNat * ((h.na.toNat : Int) - 1)) % 65536 := by
  rw [fecLast, BitVec.toNat_ofInt]
  exact Int.toNat_of_nonneg (Int.emod_nonneg _ (by decide))

/-- The header's numbers count from its base (R132). -/
theorem fecLast_eq (h : FecHeader) :
    fecLast h = h.snBaseLow + BitVec.ofInt 16 (h.offset.toNat * ((h.na.toNat : Int) - 1)) := by
  rw [fecLast, BitVec.ofInt_add, BitVec.ofInt_natCast, BitVec.ofNat_toNat, BitVec.setWidth_eq]

/-- Settles O22: the formula, and its values at `na` 0 and 1 and at `offset` 0. -/
theorem fecLastFormula : Obligations.FecLastFormula := by
  intro h
  refine ⟨fecLast_toNat h, fun hna => ?_, fun hone => ?_⟩
  · have hneg : (h.offset.toNat : Int) * ((h.na.toNat : Int) - 1) = -h.offset.toNat := by simp [hna]
    rw [fecLast_eq, hneg, BitVec.ofInt_neg, BitVec.ofInt_natCast, BitVec.ofNat_toNat, BitVec.sub_eq_add_neg]
  · have hzero : (h.offset.toNat : Int) * ((h.na.toNat : Int) - 1) = 0 := by
      obtain hna | hoffset := hone
      · simp [hna]
      · simp [hoffset]
    rw [fecLast_eq, hzero]
    simp

/-- Number `k` of the range, counted back from its last one. -/
theorem protected_eq_fecLast_add (h : FecHeader) (k : Nat) :
    h.snBaseLow + BitVec.ofNat 16 (h.offset.toNat * k) =
      fecLast h + BitVec.ofInt 16 (h.offset.toNat * ((k : Int) - (h.na.toNat - 1))) := by
  rw [fecLast_eq, add_assoc, ← BitVec.ofInt_add, ← BitVec.ofInt_natCast]
  congr 2
  push_cast
  ring

theorem stepsBack_nonpos (h : FecHeader) {k : Nat} (hk : k < h.na.toNat) :
    (h.offset.toNat : Int) * ((k : Int) - (h.na.toNat - 1)) ≤ 0 :=
  Int.mul_nonpos_of_nonneg_of_nonpos (by omega) (by omega)

/-- With the range and its lag within half the sequence space, no number of the range is so far back that its distance
to the cursor wraps. -/
theorem dist_protected {h : FecHeader} {c : SeqNum} {k : Nat}
    (hroom : (h.offset.toNat * (h.na.toNat - 1) : Int) - dist (fecLast h) c ≤ 32768) (hk : k < h.na.toNat) :
    dist (h.snBaseLow + BitVec.ofNat 16 (h.offset.toNat * k)) c =
      dist (fecLast h) c + h.offset.toNat * ((k : Int) - (h.na.toNat - 1)) := by
  have hsplit : (h.offset.toNat : Int) * ((k : Int) - (h.na.toNat - 1)) =
      h.offset.toNat * k - h.offset.toNat * (h.na.toNat - 1) := by ring
  have hfirst : 0 ≤ (h.offset.toNat : Int) * k := by positivity
  have hback := stepsBack_nonpos h hk
  have hlast := dist_le (fecLast h) c
  rw [protected_eq_fecLast_add, dist_add_ofInt] <;> omega

/-- Settles O23: the last number is the furthest of the range, and none wraps. -/
theorem staleIsTheWholeRange : Obligations.StaleIsTheWholeRange := by
  intro h c hna hroom
  rw [fecStale, decide_eq_true_iff]
  constructor
  · intro hstale k hk
    have hback := stepsBack_nonpos h hk
    rw [dist_protected hroom hk]
    omega
  · intro hall
    have hend := hall (h.na.toNat - 1) (by omega)
    rwa [dist_protected hroom (by omega), Nat.cast_sub hna, Nat.cast_one, sub_self, mul_zero, add_zero] at hend

end Sys2Proof.Machine

/-! PROOFS. The distance comparator: the circular distance (R150), its laws (R151, R152) and the command (R153). -/

namespace Sys2Proof.Machine

/-! ### The formula, and the range of a distance (R150, R151) -/

/-- The wrapped difference is the remainder of the difference over the integers. -/
theorem toNat_sub_eq_emod (a b : SeqNum) : ((a - b).toNat : Int) = ((a.toNat : Int) - b.toNat) % 65536 := by
  rw [BitVec.toNat_sub]
  omega

/-- Settles O24: `to_s16` keeps the remainder up to 32767 and takes 65536 from it above. -/
theorem distIsWrappedSignedDifference : Obligations.DistIsWrappedSignedDifference := by
  intro a b
  rw [← toNat_sub_eq_emod, dist, toS16]
  norm_cast

theorem neg_le_dist (a b : SeqNum) : -32768 ≤ dist a b := by
  rw [dist_eq_toInt]
  exact BitVec.le_toInt (a - b)

theorem dist_eq_zero_iff (a b : SeqNum) : dist a b = 0 ↔ a = b := by
  rw [dist_eq_toInt, ← sub_eq_zero (a := a)]
  exact BitVec.toInt_inj (y := 0)

/-- Only a difference of half the sequence space has the distance without an opposite. -/
theorem dist_eq_antipode_iff (a b : SeqNum) : dist a b = -32768 ↔ a - b = 0x8000 := by
  rw [dist_eq_toInt]
  exact BitVec.toInt_inj (y := 0x8000)

/-- If `dist b a` had an opposite, it would be `dist a b`, and then `dist b a` would be 32768. -/
theorem dist_antipode_symm {a b : SeqNum} (h : dist a b = -32768) : dist b a = -32768 := by
  by_contra hne
  have hopposite := dist_swap hne
  have hmax := dist_le b a
  omega

/-- A magnitude leaves the signed range at the antipode only. -/
theorem absd_dist (a b : SeqNum) : absd (dist a b) ≤ 32768 ∧ (absd (dist a b) = 32768 ↔ dist a b = -32768) := by
  have hmin := neg_le_dist a b
  have hmax := dist_le a b
  unfold absd
  split <;> omega

/-! ### Offsets from one number (R152) -/

theorem dist_add_ofInt_self (a : SeqNum) {x : Int} (hlo : -32768 ≤ x) (hhi : x ≤ 32767) :
    dist (a + BitVec.ofInt 16 x) a = x := by
  rw [dist_add_ofInt] <;> rw [dist_self] <;> omega

theorem dist_add_ofNat_self (a : SeqNum) {k : Nat} (hk : k ≤ 32767) : dist (a + BitVec.ofNat 16 k) a = k := by
  rw [← BitVec.ofInt_natCast]
  exact dist_add_ofInt_self a (by omega) (by omega)

/-- Going `k` forward is going back the rest of the sequence space. -/
theorem ofNat_eq_ofInt_sub (k : Nat) : BitVec.ofNat 16 k = BitVec.ofInt 16 ((k : Int) - 65536) := by
  rw [← BitVec.ofInt_natCast, ← BitVec.toInt_inj, BitVec.toInt_ofInt, BitVec.toInt_ofInt]
  exact (Int.sub_bmod_right k 65536).symm

/-- From offset `j` back to `a` and on to offset `i`. -/
theorem dist_add_ofNat_add_ofNat (a : SeqNum) {i j : Nat} (hi : i ≤ 32767) (hj : j ≤ 32767) :
    dist (a + BitVec.ofNat 16 i) (a + BitVec.ofNat 16 j) = (i : Int) - j := by
  have hon := dist_add_ofNat_self a hi
  have hoffset := dist_add_ofNat_self a hj
  have hback : dist a (a + BitVec.ofNat 16 j) = -j := by
    rw [dist_swap, hoffset]
    omega
  rw [dist_add (b := a)] <;> omega

/-- Settles O25: -32768 alone has no opposite; an offset in the upper half is a step back, and any two in the lower half
are compared through the number they start from. -/
theorem distanceLaws : Obligations.DistanceLaws := by
  refine ⟨dist_eq_zero_iff, fun a b hne => ?opposite, fun a b => dist_antipode_symm,
    fun a k => dist_add_ofNat_self a, fun a k hlo hhi => ?upperHalf, fun a i j => dist_add_ofNat_add_ofNat a,
    fun a b => ?magnitude⟩
  case opposite => rw [dist_swap hne, neg_neg]
  case upperHalf =>
    rw [ofNat_eq_ofInt_sub]
    exact dist_add_ofInt_self a (by omega) (by omega)
  case magnitude =>
    rw [← dist_eq_antipode_iff]
    exact absd_dist a b

/-! ### The command (R153) -/

/-- Settles O26: SEQDIST is the end of a command with the distance as its outcome. -/
theorem seqdistResult : Obligations.SeqdistResult := by
  intro a b s
  rw [← dist_eq_toInt]
  exact ⟨_, rfl, finish_answeredOnly s (.ok (.distance (dist a b))), finish_draws s _⟩

end Sys2Proof.Machine

/-! PROOFS. The insertion controller (43_enqueue.md): what the backward scan answers (R163), and the two enqueues test
by test (R161, R164, R166). -/

namespace Sys2Proof.Machine

/-! ### The backward scan (R163) -/

/-- The scan goes on past an entry with this key: it lies after the candidate and inside the window. -/
def ScanPasses (m : Nat) (c k : SeqNum) : Prop := 0 < dist k c ∧ absd (dist k c) ≤ m

/-- What the scan's answer says of `older`, the entries not behind the one where the scan stops: of their number, and of
the last of them, which is that entry. -/
def StopsAt (m : Nat) (key : Packet → SeqNum) (c : SeqNum) (older : List Packet) : ScanResult → Prop
  | .insertAt pos => pos = older.length ∧ ∀ e ∈ older.getLast?, dist (key e) c < 0 ∧ absd (dist (key e) c) ≤ m
  | .duplicate => ∃ e ∈ older.getLast?, key e = c
  | .outOfWindow => ∃ e ∈ older.getLast?, absd (dist (key e) c) > m

section
variable (m : Nat) (key : Packet → SeqNum)

theorem insertScan_nil (c : SeqNum) : insertScan m key [] c = .insertAt 0 := rfl

/-- The three tests at the newest entry, in the order of R163. -/
theorem insertScan_concat (l : List Packet) (e : Packet) (c : SeqNum) :
    insertScan m key (l ++ [e]) c =
      if absd (dist (key e) c) > m then .outOfWindow
      else if dist (key e) c = 0 then .duplicate
      else if dist (key e) c < 0 then .insertAt (l.length + 1)
      else insertScan m key l c := by
  simp [insertScan, scanBack]

/-- The scan passes over the newest entries, and the entry where it stops decides. -/
theorem insertScan_split (l : List Packet) (c : SeqNum) :
    ∃ older passed, l = older ++ passed ∧ (∀ e ∈ passed, ScanPasses m c (key e)) ∧
      StopsAt m key c older (insertScan m key l c) := by
  induction l using List.reverseRecOn with
  | nil => exact ⟨[], [], rfl, nofun, rfl, nofun⟩
  | append_singleton l e ih =>
    have stop {a : ScanResult} (ha : StopsAt m key c (l ++ [e]) a) :
        ∃ older passed, l ++ [e] = older ++ passed ∧ (∀ x ∈ passed, ScanPasses m c (key x)) ∧
          StopsAt m key c older a := ⟨l ++ [e], [], (List.append_nil _).symm, nofun, ha⟩
    have hlast : e ∈ (l ++ [e]).getLast? := List.getLast?_concat
    rw [insertScan_concat]
    split
    · exact stop ⟨e, hlast, ‹_›⟩
    · have hwithin := Int.not_lt.1 ‹_›
      split
      · exact stop ⟨e, hlast, (dist_eq_zero_iff _ _).1 ‹_›⟩
      · split
        · refine stop ⟨(List.length_append (bs := [e])).symm, fun x hx => ?_⟩
          obtain rfl := Option.mem_unique hlast hx
          exact ⟨‹_›, hwithin⟩
        · obtain ⟨older, passed, rfl, hpassed, hstop⟩ := ih
          refine ⟨older, passed ++ [e], List.append_assoc .., ?_, hstop⟩
          rw [List.forall_mem_append, List.forall_mem_singleton]
          exact ⟨hpassed, by omega, hwithin⟩

end

/-- Settles O27: the entries passed are those behind the one where the scan stops. -/
theorem insertScanAnswer : Obligations.InsertScanAnswer := by
  intro m key l c
  obtain ⟨older, passed, rfl, hpassed, hstop⟩ := insertScan_split m key l c
  have behind {i : Nat} {x : Packet} (hi : older.length ≤ i) (hx : (older ++ passed)[i]? = some x) :
      ScanPasses m c (key x) :=
    hpassed x (List.mem_of_getElem? (List.getElem?_append_right hi ▸ hx))
  have last_eq (hne : 0 < older.length) : (older ++ passed)[older.length - 1]? = older.getLast? := by
    rw [List.getElem?_append_left (by omega), List.getLast?_eq_getElem?]
  have stopped {e : Packet} (he : e ∈ older.getLast?) : ∃ i, (older ++ passed)[i]? = some e ∧
      ∀ (j : Nat) (x : Packet), i < j → (older ++ passed)[j]? = some x → ScanPasses m c (key x) := by
    have hne : 0 < older.length := List.length_pos_of_mem (List.mem_of_mem_getLast? he)
    exact ⟨older.length - 1, (last_eq hne).trans he, fun j x hj => behind (by omega)⟩
  generalize insertScan m key (older ++ passed) c = answer at hstop
  cases answer with
  | insertAt pos =>
    obtain ⟨rfl, hlast⟩ := hstop
    exact ⟨by simp, fun i e hi => behind hi, fun e hpos he => hlast e (last_eq hpos ▸ he)⟩
  | duplicate =>
    obtain ⟨e, he, hkey⟩ := hstop
    obtain ⟨i, hi, hbehind⟩ := stopped he
    exact ⟨i, e, hi, hkey, hbehind⟩
  | outOfWindow =>
    obtain ⟨e, he, hfar⟩ := hstop
    obtain ⟨i, hi, hbehind⟩ := stopped he
    exact ⟨i, e, hi, hfar, hbehind⟩

/-! ### A command after its RTP decode (R161, R164) -/

/-- A command that decodes a packet first is rejected as the closed form says, or goes on with the closed form's packet
in a state that agrees with the one it started from. -/
theorem rtpThenCommand_answers {buf : List Byte} {s : State} {k : State → State} {Rest : Prop}
    (hrest : ∀ u, AgreeForCommands s u → u.pkt.packet = closedPacket buf →
      (rtpDecode (openStream buf s)).thenCommand k = k u → Rest) :
    if isTruncated buf then AnsweredOnly 0b1000 (.count 0) s ((rtpDecode (openStream buf s)).thenCommand k)
    else if isMalformed buf then AnsweredOnly 0b1001 (.count 0) s ((rtpDecode (openStream buf s)).thenCommand k)
    else Rest := by
  have rejected {r : Reason} (h : closedRtp buf = .error r) :
      AnsweredOnly r.status (.count 0) s ((rtpDecode (openStream buf s)).thenCommand k) := by
    obtain ⟨u, hu, hwrites⟩ := rtpDecode_of_error h s
    rw [hu]
    exact hwrites.agree.finish_answeredOnly (.rejected r)
  split
  · exact rejected (r := .truncated) (by rw [closedRtp, if_pos ‹_›])
  · split
    · exact rejected (r := .malformed) (by rw [closedRtp, if_neg ‹_›, if_pos ‹_›])
    · obtain ⟨u, hu, hpkt, hwrites⟩ := rtpDecode_of_ok (by rw [closedRtp, if_neg ‹_›, if_neg ‹_›]) s
      exact hrest u hwrites.agree hpkt (by rw [hu]; rfl)

/-! ### ENQ.DATA (R161) -/

/-- `PLAIN` fails, as R161 tests it and as R162 says it. -/
theorem not_plain_iff (p : Packet) :
    (!plain p) = true ↔ ¬ (p.padding = false ∧ p.extension = false ∧ p.marker = false ∧ p.cc = 0) := by
  rw [← plain_iff, Bool.not_eq_true', Bool.not_eq_true]

/-- Settles O28: the decode, then the three tests, each of which ends the command with nothing written. -/
theorem enqDataResult : Obligations.EnqDataResult := by
  intro buf s hlen
  refine ⟨enqData buf s, if_pos hlen, ?_⟩
  rw [enqData_eq]
  refine rtpThenCommand_answers fun u hu hpkt hend => ?_
  have ⟨⟨hdata, hdataCount, _⟩, hparams, _⟩ := hu
  rw [enqDataDecoded, hpkt, hdata, hdataCount, hparams] at hend
  generalize (rtpDecode (openStream buf s)).thenCommand _ = t at hend ⊢
  simp only [← not_plain_iff]
  split
  · rw [if_pos ‹_›] at hend
    exact hend ▸ hu.finish_answeredOnly (.rejected .unsupportedProfile)
  rw [if_neg ‹_›] at hend
  split
  · rw [if_pos ‹_›] at hend
    exact hend ▸ hu.finish_answeredOnly (.rejected .capacityExceeded)
  rw [if_neg ‹_›] at hend
  cases hscan : insertScan s.params.maxDistance.val (fun e => e.seq) s.data (closedPacket buf).seq <;>
    rw [hscan] at hend
  case outOfWindow => exact hend ▸ hu.finish_answeredOnly (.rejected .outOfWindow)
  case duplicate => exact hend ▸ hu.finish_answeredOnly (.duplicateIgnored buf.length)
  case insertAt pos => exact hend ▸ (hu.setData _ _).finish_answeredOnly (.accepted buf.length)

/-! ### ENQ.FEC (R164) -/

/-- The first test of `ENQ.FEC` fails, as R164 tests it and field by field. -/
theorem not_plainFec_iff (p : Packet) :
    (!plain p || p.pt != Config.fecPt) = true ↔
      ¬ (p.padding = false ∧ p.extension = false ∧ p.marker = false ∧ p.cc = 0 ∧ p.pt = 96) := by
  simp only [Bool.or_eq_true, bne_iff_ne, Config.fecPt, not_plain_iff]
  tauto

theorem not_fecProfile_iff (h : FecHeader) :
    (!fecProfile h) = true ↔
      ¬ (h.x = false ∧ h.mask = 0 ∧ h.type = 0 ∧ h.index = 0 ∧ h.snBaseExt = 0 ∧ h.e = true) := by
  rw [Bool.not_eq_true', ← Bool.not_eq_true, fecProfile_iff]
  tauto

theorem staleAtCursor_eq (cursor : Option SeqNum) (h : FecHeader) :
    staleAtCursor cursor h = cursor.any (fun c => decide (dist (fecLast h) c ≤ 0)) := by
  cases cursor <;> rfl

/-- Settles O29: two decodes, and the tests on what each of them gives. -/
theorem enqFecResult : Obligations.EnqFecResult := by
  intro buf s hlen
  refine ⟨enqFec buf s, if_pos hlen, ?_⟩
  rw [enqFec_eq]
  refine rtpThenCommand_answers fun u hu hpkt hend => ?_
  have ⟨⟨_, _, _, hfecCount, _⟩, hparams, _⟩ := hu
  rw [enqFecDecoded_eq, hpkt, hfecCount, hparams] at hend
  generalize (rtpDecode (openStream buf s)).thenCommand _ = t at hend ⊢
  simp only [← not_plainFec_iff, ← not_fecProfile_iff, ← staleAtCursor_eq]
  split
  · rw [if_pos ‹_›] at hend
    exact hend ▸ hu.finish_answeredOnly (.rejected .unsupportedProfile)
  rw [if_neg ‹_›] at hend
  split
  · rw [if_pos ‹_›] at hend
    exact hend ▸ hu.finish_answeredOnly (.rejected .capacityExceeded)
  rw [if_neg ‹_›] at hend
  split
  · rw [fecDecode_of_short ‹_›] at hend
    exact hend ▸ hu.finish_answeredOnly (.rejected .truncated)
  obtain ⟨v, hdone, hfec, hwrites⟩ := fecDecode_of_long (Nat.not_lt.1 ‹_›) u
  have hv := hu.trans hwrites.agree
  have ⟨⟨_, _, hfecl, hfecCount, hcursor⟩, hparams, _⟩ := hv
  rw [hdone, Decoded.thenCommand, enqFecParsed, hfec, hfecl, hfecCount, hcursor, hparams] at hend
  split
  · rw [if_pos ‹_›] at hend
    exact hend ▸ hv.finish_answeredOnly (.rejected .unsupportedProfile)
  rw [if_neg ‹_›] at hend
  split
  · rw [if_pos ‹_›] at hend
    exact hend ▸ hv.finish_answeredOnly (.duplicateIgnored buf.length)
  rw [if_neg ‹_›] at hend
  cases hscan : insertScan s.params.maxDistance.val fecKey s.fecl
      (closedFecHeader (closedPacket buf).payload).snBaseLow <;> rw [hscan] at hend
  case outOfWindow => exact hend ▸ hv.finish_answeredOnly (.rejected .outOfWindow)
  case duplicate => exact hend ▸ hv.finish_answeredOnly (.duplicateIgnored buf.length)
  case insertAt pos =>
    obtain ⟨hanswered, hdata, hdataCount, hfecl, hfecCount, hcursor⟩ :=
      (hv.setFecl _ _).finish_answeredOnly (.accepted buf.length)
    exact hend ▸ ⟨hanswered, hfecl, hfecCount, hdata, hdataCount, hcursor⟩

/-! ### What the two leave alone (R166) -/

/-- Either nothing is written, or the answer is `Accepted` and the list is as before with one entry more. -/
def KeptOrAccepted (list : State → List Packet) (s t : State) : Prop :=
  SamePersistent s t ∨
    (∃ v, t.response = some { status := 0b0000, value := v }) ∧ ∃ pos p, list t = insertAt (list s) pos p

section
variable {list : State → List Packet} {s t : State}

theorem AnsweredOnly.keptOrAccepted {w : Status} {v : Value} (h : AnsweredOnly w v s t) :
    KeptOrAccepted list s t := .inl h.2

theorem KeptOrAccepted.sublist (h : KeptOrAccepted list s t) (hlist : SamePersistent s t → list t = list s) :
    (list s).Sublist (list t) := by
  obtain hsame | ⟨-, pos, p, hinsert⟩ := h
  · rw [hlist hsame]
  · rw [hinsert]
    exact sublist_insertAt _ _ _

theorem KeptOrAccepted.samePersistent (h : KeptOrAccepted list s t) (r : Response) (hr : t.response = some r)
    (hstatus : r.status ≠ 0b0000) : SamePersistent s t := by
  refine h.resolve_right fun ⟨⟨v, hv⟩, _⟩ => hstatus ?_
  obtain rfl := Option.some.inj (hv.symm.trans hr)
  rfl

/-- A command with a buffer that answers has a buffer of a legal length (R59). -/
theorem le_pktMax_of_withBuffer {u : State} {len : Nat}
    (h : (if len ≤ s.params.pktMax then .next u else .refused (.bufferTooLong len) :
      Host.Outcome State Fault Refusal) = .next t) : len ≤ s.params.pktMax := by
  split at h
  · assumption
  · cases h

theorem exec_enqData_keptOrAccepted {buf : List Byte} (h : exec (.enqData buf) s = .next t) :
    KeptOrAccepted State.data s t := by
  obtain ⟨u, hu, hresult⟩ := enqDataResult buf s (le_pktMax_of_withBuffer h)
  obtain rfl := Host.Outcome.next.inj (hu.symm.trans h)
  dsimp only at hresult
  split_ifs at hresult
  case neg =>
    split at hresult
    · exact hresult.keptOrAccepted
    · exact hresult.keptOrAccepted
    · obtain ⟨⟨hresponse, -⟩, hdata, -⟩ := hresult
      exact .inr ⟨⟨_, hresponse⟩, _, _, hdata⟩
  all_goals exact hresult.keptOrAccepted

theorem exec_enqFec_keptOrAccepted {buf : List Byte} (h : exec (.enqFec buf) s = .next t) :
    KeptOrAccepted State.fecl s t := by
  obtain ⟨u, hu, hresult⟩ := enqFecResult buf s (le_pktMax_of_withBuffer h)
  obtain rfl := Host.Outcome.next.inj (hu.symm.trans h)
  dsimp only at hresult
  split_ifs at hresult
  case neg =>
    split at hresult
    · exact hresult.keptOrAccepted
    · exact hresult.keptOrAccepted
    · obtain ⟨⟨hresponse, -⟩, hfecl, -⟩ := hresult
      exact .inr ⟨⟨_, hresponse⟩, _, _, hfecl⟩
  all_goals exact hresult.keptOrAccepted

end

/-- Settles O30: neither command writes the other's part, and a list that is written has one entry more. -/
theorem enqueueFrame : Obligations.EnqueueFrame := by
  intro buf s t
  refine ⟨fun h => ?data, fun h => ?fec⟩
  case data =>
    obtain ⟨hsurroundings, hcursor, -, hfecl⟩ := whoWritesTheStores _ s t h
    obtain ⟨hfecl, hfecCount⟩ := hfecl nofun nofun
    have hends := exec_enqData_keptOrAccepted h
    exact ⟨hfecl, hfecCount, hcursor nofun, hends.sublist (fun ⟨hdata, _⟩ => hdata), hsurroundings,
      hends.samePersistent⟩
  case fec =>
    obtain ⟨hsurroundings, hcursor, hdata, -⟩ := whoWritesTheStores _ s t h
    obtain ⟨hdata, hdataCount⟩ := hdata nofun nofun
    have hends := exec_enqFec_keptOrAccepted h
    exact ⟨hdata, hdataCount, hcursor nofun, hends.sublist (fun ⟨_, _, hfecl, _⟩ => hfecl), hsurroundings,
      hends.samePersistent⟩

end Sys2Proof.Machine

/-! PROOFS. The sequential drain and its evictions (44_read_flush.md): what `READ` answers and where it stops (R190),
what a delivery keeps and evicts (R191 to R193), and what follows for one `READ` after another (R194). -/

namespace Sys2Proof.Machine

/-! ### The cases of `READ` (R190) -/

/-- `READ` has nothing to deliver: the list is empty, or the cursor stands at the tail or before a gap. -/
def NothingNext (s : State) : Prop :=
  s.data = [] ∨
    ∃ c j, s.cursor = some c ∧ (s.data.map (fun e => e.seq))[j]? = some c ∧
      (s.data.length = j + 1 ∨ ∃ e, s.data[j + 1]? = some e ∧ dist e.seq c ≠ 1)

/-- `READ` delivers `e`: the first entry without a cursor, else the one behind the cursor's, one number further. -/
def IsNext (s : State) (e : Packet) : Prop :=
  (s.cursor = none ∧ s.data[0]? = some e) ∨
    ∃ c j, s.cursor = some c ∧ (s.data.map (fun e => e.seq))[j]? = some c ∧ s.data[j + 1]? = some e ∧
      dist e.seq c = 1

/-- The two ends of `READ` where it answers. -/
def ReadAnswers (s t : State) : Prop :=
  (t = finish .notReady s ∧ NothingNext s) ∨ ∃ e, t = deliver e s ∧ IsNext s e

theorem IsNext.mem {s : State} {e : Packet} (h : IsNext s e) : e ∈ s.data := by
  obtain ⟨-, hfirst⟩ | ⟨c, j, -, -, hnext, -⟩ := h
  · exact List.mem_of_getElem? hfirst
  · exact List.mem_of_getElem? hnext

/-- A delivery behind a cursor moves it on by one (R151). -/
theorem IsNext.seq_eq {s : State} {e : Packet} {c : SeqNum} (h : IsNext s e) (hc : s.cursor = some c) :
    e.seq = c + 1 := by
  obtain ⟨hnone, -⟩ | ⟨d, j, hd, -, -, hdist⟩ := h
  · cases hc.symm.trans hnone
  · obtain rfl := Option.some.inj (hc.symm.trans hd)
    rw [dist_eq_toInt] at hdist
    have hone : e.seq - c = 1 := BitVec.toInt_inj.1 hdist
    rw [← hone, add_comm, BitVec.sub_add_cancel]

theorem getElem?_of_cursorIndex {c : SeqNum} {l : List Packet} {j : Nat} (h : cursorIndex c l = some j) :
    (l.map (fun e => e.seq))[j]? = some c := by
  simpa only [h] using cursorIndex_cases c l

theorem cursorIndex_eq_none_iff {c : SeqNum} {l : List Packet} : cursorIndex c l = none ↔ ¬ ∃ e ∈ l, e.seq = c := by
  constructor
  · intro h
    simpa only [h] using cursorIndex_cases c l
  · intro hmissing
    by_contra hfound
    obtain ⟨j, hj⟩ := Option.ne_none_iff_exists'.1 hfound
    exact hmissing (List.mem_map.1 (List.mem_of_getElem? (getElem?_of_cursorIndex hj)))

section
variable {s : State}

theorem exec_read_of_empty (hdata : s.data = []) : exec .read s = .next (finish .notReady s) := by
  simp only [exec, execRead, hdata]

theorem exec_read_of_no_cursor {e : Packet} {rest : List Packet} (hdata : s.data = e :: rest)
    (hcursor : s.cursor = none) : exec .read s = .next (deliver e s) := by
  simp only [exec, execRead, hdata, hcursor]

/-- With entries and a cursor the lookup decides between the fault and the test of the next entry. -/
theorem exec_read_of_cursor {c : SeqNum} (hdata : s.data ≠ []) (hcursor : s.cursor = some c) :
    exec .read s = (cursorIndex c s.data).elim (.fault .cursorEntryMissing) (fun j => .next (readAfter c j s)) := by
  obtain ⟨e, rest, hdata⟩ := List.exists_cons_of_ne_nil hdata
  simp only [exec, execRead, hdata, hcursor]
  cases cursorIndex c (e :: rest) <;> rfl

theorem readAfter_of_tail {c : SeqNum} {j : Nat} (h : s.data[j + 1]? = none) :
    readAfter c j s = finish .notReady s := by
  simp only [readAfter, h]

theorem readAfter_of_entry {c : SeqNum} {j : Nat} {e : Packet} (h : s.data[j + 1]? = some e) :
    readAfter c j s = if dist e.seq c ≠ 1 then finish .notReady s else deliver e s := by
  simp only [readAfter, h]

theorem readAfter_answers {c : SeqNum} {j : Nat} (hcursor : s.cursor = some c)
    (hentry : (s.data.map (fun e => e.seq))[j]? = some c) : ReadAnswers s (readAfter c j s) := by
  cases hnext : s.data[j + 1]? with
  | none =>
    have hj : j < s.data.length := by simpa using (List.getElem?_eq_some_iff.1 hentry).1
    have hlen := List.getElem?_eq_none_iff.1 hnext
    exact .inl ⟨readAfter_of_tail hnext, .inr ⟨c, j, hcursor, hentry, .inl (by omega)⟩⟩
  | some e =>
    rw [readAfter_of_entry hnext]
    split
    · exact .inl ⟨rfl, .inr ⟨c, j, hcursor, hentry, .inr ⟨e, hnext, ‹_›⟩⟩⟩
    · exact .inr ⟨e, rfl, .inr ⟨c, j, hcursor, hentry, hnext, not_not.1 ‹_›⟩⟩

theorem exec_read_of_stored (h : s.data = [] ∨ CursorStored s) : ∃ t, exec .read s = .next t ∧ ReadAnswers s t := by
  by_cases hempty : s.data = []
  · exact ⟨_, exec_read_of_empty hempty, .inl ⟨rfl, .inl hempty⟩⟩
  obtain ⟨front, rest, hdata⟩ := List.exists_cons_of_ne_nil hempty
  cases hcursor : s.cursor with
  | none => exact ⟨_, exec_read_of_no_cursor hdata hcursor, .inr ⟨front, rfl, .inl ⟨hcursor, by rw [hdata]; rfl⟩⟩⟩
  | some c =>
    rw [exec_read_of_cursor hempty hcursor]
    cases hj : cursorIndex c s.data with
    | none => exact absurd (h.resolve_left hempty c hcursor) (cursorIndex_eq_none_iff.1 hj)
    | some j => exact ⟨_, rfl, readAfter_answers hcursor (getElem?_of_cursorIndex hj)⟩

theorem exec_read_of_missing (h : ¬ (s.data = [] ∨ CursorStored s)) : exec .read s = .fault .cursorEntryMissing := by
  obtain ⟨hempty, hmissing⟩ := not_or.1 h
  obtain ⟨c, hc⟩ := not_forall.1 hmissing
  obtain ⟨hcursor, hmissing⟩ := Classical.not_imp.1 hc
  rw [exec_read_of_cursor hempty hcursor, cursorIndex_eq_none_iff.2 hmissing, Option.elim_none]

/-- What a `READ` that answers has done. -/
theorem readAnswers_of_exec {t : State} (h : exec .read s = .next t) : ReadAnswers s t := by
  by_cases hstored : s.data = [] ∨ CursorStored s
  · obtain ⟨u, hu, hanswers⟩ := exec_read_of_stored hstored
    obtain rfl := Host.Outcome.next.inj (hu.symm.trans h)
    exact hanswers
  · cases (exec_read_of_missing hstored).symm.trans h

/-- The status `Delivered` tells a delivery. -/
theorem ReadAnswers.delivered {t : State} {r : Response} (h : ReadAnswers s t) (hr : t.response = some r)
    (hstatus : r.status = 0b0010) : ∃ e, t = deliver e s ∧ IsNext s e := by
  obtain ⟨rfl, -⟩ | hdelivered := h
  · rw [finish_response] at hr
    cases hr
    cases hstatus
  · exact hdelivered

/-- The status `NotReady` tells that there was nothing to deliver. -/
theorem ReadAnswers.notReady {t : State} {r : Response} (h : ReadAnswers s t) (hr : t.response = some r)
    (hstatus : r.status = 0b0011) : t = finish .notReady s := by
  obtain ⟨ht, -⟩ | ⟨e, rfl, -⟩ := h
  · exact ht
  · rw [(deliver_answered e s).1] at hr
    cases hr
    cases hstatus

end

/-! ### What a delivery writes (R191 to R193) -/

theorem deliver_dataCount (e : Packet) (s : State) :
    (deliver e s).dataCount = s.dataCount - (s.data.length - (deliver e s).data.length) := by
  rw [deliver_data, deliver, finish_dataCount, flush_dataCount, flush_data, flush_data]
  rfl

theorem deliver_fecCount (e : Packet) (s : State) :
    (deliver e s).fecCount = s.fecCount - (s.fecl.length - (deliver e s).fecl.length) := by
  rw [deliver_fecl, deliver, finish_fecCount, flush_fecCount, flush_fecl, flush_fecl]
  rfl

/-- Settles O31: the case of `READ`, and what its end writes. -/
theorem readResult : Obligations.ReadResult := by
  intro s hstored
  obtain ⟨t, ht, ⟨rfl, hnothing⟩ | ⟨e, rfl, hnext⟩⟩ := exec_read_of_stored hstored
  · exact ⟨_, ht, .inl ⟨finish_answeredOnly s .notReady, hnothing⟩⟩
  · exact ⟨_, ht, .inr ⟨e, deliver_answered e s, hnext, deliver_cursor e s,
      (deliver_data e s).trans (flush_data e.seq s), deliver_dataCount e s,
      (deliver_fecl e s).trans (flush_fecl e.seq s), deliver_fecCount e s⟩⟩

/-- Settles O32: the lookup of the cursor's entry decides. -/
theorem readStopsOnlyWithoutCursorEntry : Obligations.ReadStopsOnlyWithoutCursorEntry := by
  intro s
  refine ⟨fun hstored => ?_, exec_read_of_missing⟩
  obtain ⟨t, ht, -⟩ := exec_read_of_stored hstored
  exact ⟨t, ht⟩

/-- An eviction removes a front part, all of it to go. -/
theorem exists_evicted_front {α : Type} (goes : α → Bool) (l : List α) :
    ∃ gone, l = gone ++ l.dropWhile goes ∧ ∀ e ∈ gone, goes e = true :=
  ⟨l.takeWhile goes, List.takeWhile_append_dropWhile.symm, fun _ => List.mem_takeWhile_imp⟩

/-- Where an eviction stops, the front entry is not to go. -/
theorem front_stays {α : Type} {goes : α → Bool} {l : List α} {e : α} (h : (l.dropWhile goes)[0]? = some e) :
    goes e = false := by
  have hhead := List.head?_dropWhile_not goes l
  rwa [List.head?_eq_getElem?, h] at hhead

/-- Settles O33: the delivered entry is at distance 0 from the new cursor, so the eviction does not reach it. -/
theorem deliveryEvictsOnlyOldEntries : Obligations.DeliveryEvictsOnlyOldEntries := by
  intro s t c r h hr hstatus hc
  obtain ⟨e, rfl, hnext⟩ := (readAnswers_of_exec h).delivered hr hstatus
  obtain rfl := Option.some.inj ((deliver_cursor e s).symm.trans hc)
  rw [deliver_data, deliver_fecl, flush_data, flush_fecl]
  refine ⟨⟨e, mem_dropWhile_of_stays hnext.mem (by simp [dist_self]), rfl⟩, fun x hx => ?_, ?_,
    exists_evicted_front _ _⟩
  · exact Int.not_lt.1 (of_decide_eq_false (front_stays (e := x) hx))
  · obtain ⟨gone, hsplit, hgone⟩ := exists_evicted_front _ _
    exact ⟨gone, hsplit, fun x hx => of_decide_eq_true (hgone x hx)⟩

/-! ### One `READ` after another (R194) -/

/-- Settles O34: the entry delivered is the one at distance 1. -/
theorem deliveriesAreConsecutive : Obligations.DeliveriesAreConsecutive := by
  intro s t c r hc h hr hstatus
  obtain ⟨e, rfl, hnext⟩ := (readAnswers_of_exec h).delivered hr hstatus
  rw [deliver_cursor, hnext.seq_eq hc]

/-- Settles O35: the state left agrees with the one before in all that a command sees. -/
theorem notReadyRepeats : Obligations.NotReadyRepeats := by
  intro s t r h hr hstatus
  obtain rfl := (readAnswers_of_exec h).notReady hr hstatus
  have hagree := finish_agree .notReady s
  exact ⟨hagree.1, _, (hagree.exec_eq (finish_draws s _) rfl).trans h, finish_response s .notReady⟩

/-! ### Draining consecutive numbers (R194 item 5) -/

/-- The entries have consecutive numbers from `c`. -/
def NumberedFrom (c : SeqNum) (l : List Packet) : Prop :=
  ∀ (i : Nat) (e : Packet), l[i]? = some e → e.seq = c + BitVec.ofNat 16 i

theorem NumberedFrom.of_append {c : SeqNum} {gone l : List Packet} (h : NumberedFrom c (gone ++ l)) :
    NumberedFrom (c + BitVec.ofNat 16 gone.length) l := by
  intro i e he
  rw [add_assoc, ← BitVec.ofNat_add]
  exact h _ e ((List.getElem?_append_right (Nat.le_add_right _ _)).trans (by rwa [Nat.add_sub_cancel_left]))

/-- Within half the sequence space the numbers are as far apart as the entries. -/
theorem NumberedFrom.dist_eq {c : SeqNum} {l : List Packet} {i j : Nat} {a b : Packet} (h : NumberedFrom c l)
    (hlen : l.length ≤ 32768) (ha : l[i]? = some a) (hb : l[j]? = some b) : dist a.seq b.seq = (i : Int) - j := by
  have hi := (List.getElem?_eq_some_iff.1 ha).1
  have hj := (List.getElem?_eq_some_iff.1 hb).1
  rw [h i a ha, h j b hb]
  exact dist_add_ofNat_add_ofNat c (by omega) (by omega)

/-- The lookup of an entry's number finds that entry. -/
theorem NumberedFrom.cursorIndex_eq {c : SeqNum} {l : List Packet} {i : Nat} {e : Packet} (h : NumberedFrom c l)
    (hlen : l.length ≤ 32768) (he : l[i]? = some e) : cursorIndex e.seq l = some i := by
  cases hj : cursorIndex e.seq l with
  | none => exact absurd ⟨e, List.mem_of_getElem? he, rfl⟩ (cursorIndex_eq_none_iff.1 hj)
  | some j =>
    have hfound := getElem?_of_cursorIndex hj
    rw [List.getElem?_map, Option.map_eq_some_iff] at hfound
    obtain ⟨x, hx, hseq⟩ := hfound
    have hdist := h.dist_eq hlen hx he
    rw [hseq, dist_self] at hdist
    exact congrArg some (by omega)

/-- `e` is the entry delivered last, and `rest` is still to come. -/
def DeliveredUpTo (e : Packet) (rest : List Packet) (t : State) : Prop :=
  t.cursor = some e.seq ∧ t.data.length ≤ 32768 ∧ (∃ c, NumberedFrom c t.data) ∧ ∃ kept, t.data = kept ++ e :: rest

theorem dropWhile_append_cons_of_stays {α : Type} {goes : α → Bool} {e : α} (h : goes e = false)
    (kept rest : List α) : (kept ++ e :: rest).dropWhile goes = kept.dropWhile goes ++ e :: rest := by
  rw [List.dropWhile_append]
  split
  · rename_i hnone
    rw [List.isEmpty_iff.1 hnone, List.nil_append, List.dropWhile_cons_of_neg (by simp [h])]
  · rfl

/-- Whatever its eviction removes, a delivery leaves the entry and those behind it. -/
theorem deliveredUpTo_deliver {e : Packet} {kept rest : List Packet} {s : State} {c : SeqNum}
    (hnumbers : NumberedFrom c s.data) (hlen : s.data.length ≤ 32768) (hdata : s.data = kept ++ e :: rest) :
    DeliveredUpTo e rest (deliver e s) := by
  have hdrop := (deliver_data e s).trans (flush_data e.seq s)
  obtain ⟨gone, hsplit, -⟩ := exists_evicted_front _ s.data
  rw [← hdrop] at hsplit
  rw [hsplit] at hnumbers
  refine ⟨deliver_cursor e s, ?_, ⟨_, hnumbers.of_append⟩, ?_⟩
  · rw [hdrop]
    exact (List.dropWhile_sublist _).length_le.trans hlen
  · rw [hdrop, hdata, dropWhile_append_cons_of_stays (by simp [dist_self])]
    exact ⟨_, rfl⟩

theorem DeliveredUpTo.exec_read_nil {e : Packet} {t : State} (h : DeliveredUpTo e [] t) :
    exec .read t = .next (finish .notReady t) := by
  obtain ⟨hcursor, hlen, ⟨c, hnumbers⟩, kept, hdata⟩ := h
  have he : t.data[kept.length]? = some e := by simp [hdata]
  rw [exec_read_of_cursor (by simp [hdata]) hcursor, hnumbers.cursorIndex_eq hlen he, Option.elim_some,
    readAfter_of_tail (by simp [hdata])]

theorem DeliveredUpTo.exec_read_cons {e x : Packet} {rest : List Packet} {t : State}
    (h : DeliveredUpTo e (x :: rest) t) :
    exec .read t = .next (deliver x t) ∧ DeliveredUpTo x rest (deliver x t) := by
  obtain ⟨hcursor, hlen, ⟨c, hnumbers⟩, kept, hdata⟩ := h
  have he : t.data[kept.length]? = some e := by simp [hdata]
  have hx : t.data[kept.length + 1]? = some x := by simp [hdata]
  have hdist : dist x.seq e.seq = 1 := by
    rw [hnumbers.dist_eq hlen hx he]
    omega
  constructor
  · rw [exec_read_of_cursor (by simp [hdata]) hcursor, hnumbers.cursorIndex_eq hlen he, Option.elim_some,
      readAfter_of_entry hx, if_neg (not_not.2 hdist)]
  · exact deliveredUpTo_deliver (kept := kept ++ [e]) hnumbers hlen (by simp [hdata])

/-- The responses to a drain: the payloads in order, then `NotReady`. -/
def drainResponses (l : List Packet) : List (Option Response) :=
  l.map (fun e => some { status := 0b0010, value := .bytes e.payload }) ++ [some { status := 0b0011, value := .none }]

theorem readMany_succ {k : Nat} {s t u : State} {rs : List (Option Response)} (hread : exec .read s = .next t)
    (hmany : readMany k t = some (rs, u)) : readMany (k + 1) s = some (t.response :: rs, u) := by
  simp only [readMany, hread, hmany]

theorem readMany_of_notReady {s : State} (hread : exec .read s = .next (finish .notReady s)) :
    readMany 1 s = some (drainResponses [], finish .notReady s) := by
  rw [readMany_succ hread rfl, finish_response]
  rfl

/-- The delivery of the next entry and the drain of the rest. -/
theorem readMany_of_delivered {e : Packet} {rest : List Packet} {s : State} (hread : exec .read s = .next (deliver e s))
    (hrest : ∃ u, readMany (rest.length + 1) (deliver e s) = some (drainResponses rest, u)) :
    ∃ u, readMany ((e :: rest).length + 1) s = some (drainResponses (e :: rest), u) := by
  obtain ⟨u, hu⟩ := hrest
  refine ⟨u, ?_⟩
  rw [List.length_cons, readMany_succ hread hu, (deliver_answered e s).1]
  rfl

theorem DeliveredUpTo.drain {e : Packet} {rest : List Packet} {t : State} (h : DeliveredUpTo e rest t) :
    ∃ u, readMany (rest.length + 1) t = some (drainResponses rest, u) := by
  induction rest generalizing e t with
  | nil => exact ⟨_, readMany_of_notReady h.exec_read_nil⟩
  | cons x rest ih =>
    obtain ⟨hread, hnext⟩ := h.exec_read_cons
    exact readMany_of_delivered hread (ih hnext)

/-- Settles O36: the first delivery sets the cursor, and each leaves the rest to be drained. -/
theorem drainDeliversInOrder : Obligations.DrainDeliversInOrder := by
  intro s c hcursor hlen hnumbers
  cases hdata : s.data with
  | nil => exact ⟨_, readMany_of_notReady (exec_read_of_empty hdata)⟩
  | cons e rest =>
    have hnext : DeliveredUpTo e rest (deliver e s) := deliveredUpTo_deliver (kept := []) hnumbers hlen hdata
    exact readMany_of_delivered (exec_read_of_no_cursor hdata hcursor) hnext.drain

end Sys2Proof.Machine

/-! PROOFS. Rejections (60_exceptions.md): what a command that answers one leaves behind, and that the next command cannot
tell it was issued (R210 to R215); the steps that rest or are refused (R216, R6). -/

namespace Sys2Proof.Machine

/-! ### What a command leaves that answers a rejection (R211, R214) -/

/-- If the response is a rejection, the persistent state and the surroundings are those of `s`, and the response carries
the code of a reason and the value 0. -/
def RejectsCleanly (s t : State) : Prop :=
  ∀ r, t.response = some r → r.status.msb = true →
    AgreeForCommands s t ∧ ∃ reason : Reason, r.status = reason.status ∧ r.value = .count 0

/-- Bit 3 of a status tells a rejection (R82). -/
theorem rejected_of_status_msb {o : CmdOutcome} (h : o.status.msb = true) : ∃ reason, o = .rejected reason := by
  cases o with
  | rejected reason => exact ⟨reason, rfl⟩
  | _ => simp [CmdOutcome.status, BitVec.msb_eq_decide] at h

/-- A command may end in any outcome as long as it has written no store, and must not end in a rejection otherwise. -/
theorem RejectsCleanly.finish {s u : State} {o : CmdOutcome}
    (h : ∀ reason, o = .rejected reason → AgreeForCommands s u) : RejectsCleanly s (finish o u) := by
  intro r hr hmsb
  rw [finish_response] at hr
  obtain rfl := Option.some.inj hr
  obtain ⟨reason, rfl⟩ := rejected_of_status_msb hmsb
  exact ⟨(h reason rfl).trans (finish_agree _ u), reason, rfl, rfl⟩

/-- What is raised in a decode is a clean rejection, so only what comes after the decode matters. -/
theorem RejectsCleanly.afterDecode {s : State} {d : Decoded} (h : AgreeForCommands s d.state) {k : State → State}
    (hk : RejectsCleanly s (k d.state)) : RejectsCleanly s (d.thenCommand k) :=
  Decoded.thenCommand_of (fun _ => .finish fun _ _ => h) hk

/-- `ENQ.DATA` inserts after its last test (R161). -/
theorem enqDataDecoded_rejectsCleanly (len : Nat) {s u : State} (h : AgreeForCommands s u) :
    RejectsCleanly s (enqDataDecoded len u) := by
  unfold enqDataDecoded
  dsimp only
  split
  · exact .finish fun _ _ => h
  · split
    · exact .finish fun _ _ => h
    · split
      · exact .finish fun _ _ => h
      · exact .finish fun _ _ => h
      · exact .finish (by nofun)

/-- `ENQ.FEC` inserts after its last test (R164). -/
theorem enqFecParsed_rejectsCleanly (len : Nat) (p : Packet) {s u : State} (h : AgreeForCommands s u) :
    RejectsCleanly s (enqFecParsed len p u) := by
  unfold enqFecParsed
  dsimp only
  split
  · exact .finish fun _ _ => h
  · split
    · exact .finish fun _ _ => h
    · split
      · exact .finish fun _ _ => h
      · exact .finish fun _ _ => h
      · exact .finish (by nofun)

theorem enqFecDecoded_rejectsCleanly (len : Nat) {s u : State} (h : AgreeForCommands s u) :
    RejectsCleanly s (enqFecDecoded len u) := by
  rw [enqFecDecoded_eq]
  split
  · exact .finish fun _ _ => h
  · split
    · exact .finish fun _ _ => h
    · have hdecode := h.trans (fecDecode_writes u.pkt.packet.payload u).agree
      exact .afterDecode hdecode (enqFecParsed_rejectsCleanly _ _ hdecode)

/-- A command that writes a store does so after every test it makes (R214). -/
theorem exec_rejectsCleanly {i : Instr} {s t : State} (hport : i.slot = .port) (h : exec i s = .next t) :
    RejectsCleanly s t := by
  cases i with
  | read =>
    obtain rfl | ⟨e, rfl⟩ := execRead_cases h
    · exact .finish fun _ _ => .refl s
    · exact .finish (by nofun)
  | enqData buf =>
    rw [← next_of_withBuffer h, enqData_eq]
    have hdecode := (rtpDecode_openStream_writes buf s).agree
    exact .afterDecode hdecode (enqDataDecoded_rejectsCleanly _ hdecode)
  | enqFec buf =>
    rw [← next_of_withBuffer h, enqFec_eq]
    have hdecode := (rtpDecode_openStream_writes buf s).agree
    exact .afterDecode hdecode (enqFecDecoded_rejectsCleanly _ hdecode)
  | decRtp buf =>
    rw [← next_of_withBuffer h, decRtp_eq]
    have hdecode := (rtpDecode_openStream_writes buf s).agree
    exact .afterDecode hdecode (.finish fun _ _ => hdecode)
  | decFec buf =>
    rw [← next_of_withBuffer h, decFec_eq]
    have hdecode := (fecDecode_writes buf s).agree
    exact .afterDecode hdecode (.finish fun _ _ => hdecode)
  | seqdist a b =>
    cases h
    exact .finish fun _ _ => .refl s
  | reserved3 | reserved7 => cases h
  | _ => cases hport

/-- The codes of the five reasons (R211). -/
theorem reason_status_cases (reason : Reason) :
    reason.status = 0b1000 ∨ reason.status = 0b1001 ∨ reason.status = 0b1010 ∨ reason.status = 0b1011 ∨
      reason.status = 0b1100 := by
  cases reason <;> decide

/-- Settles O38: a rejecting command has written nothing, and every command ends at a boundary. -/
theorem rejectionChangesNothing : Obligations.RejectionChangesNothing := by
  intro i s t r hport h hr hmsb
  obtain ⟨⟨hsame, hsurroundings⟩, reason, hstatus, hvalue⟩ := exec_rejectsCleanly hport h r hr hmsb
  exact ⟨hsame, atBoundary_of_exec hport h, hsurroundings, hvalue, hstatus ▸ reason_status_cases reason⟩

/-- Settles O39: the states before and after a rejection agree in all that a command sees of one. -/
theorem rejectedCommandLeavesNoTrace : Obligations.RejectedCommandLeavesNoTrace := by
  intro i j s t r hport hport' h hr hmsb
  obtain ⟨hagree, -⟩ := exec_rejectsCleanly hport h r hr hmsb
  exact hagree.exec hport'

/-! ### Resting and refused steps (R216, R6) -/

theorem params_legal_iff (p : Params) : p.legal = true ↔ 1 ≤ p.dataMax ∧ 16 ≤ p.pktMax := by
  simp only [Params.legal, Bool.and_eq_true, decide_eq_true_eq]

theorem step_rest {s : State} (hlegal : s.params.legal = true) (hphase : s.phase = .port) (hpending : s.pending = []) :
    step s = .next s := by
  simp only [step, hlegal, if_true, hphase, portStep, hpending]

/-- Settles O7: a boundary with nothing presented rests; either limit of R6 missed makes the parameters illegal. -/
theorem restingAndRefusedSteps : Obligations.RestingAndRefusedSteps := by
  refine ⟨fun s => step_rest, fun s hout => if_neg fun hlegal => ?_⟩
  obtain ⟨hdata, hpkt⟩ := (params_legal_iff s.params).1 hlegal
  omega

end Sys2Proof.Machine

/-! PROOFS. A full DATA store behind a gap (R244): what `READ` decides on, and that neither `READ` nor `ENQ.DATA` can
leave such a store. -/

namespace Sys2Proof.Machine

/-! ### A `READ` that waits (R190) -/

/-- What `READ` answers `NotReady` on: an empty list, or a cursor whose entry is the last one or stands before a gap. -/
def WaitsAtGap (l : List Packet) (cursor : Option SeqNum) : Prop :=
  l = [] ∨ ∃ c j, cursor = some c ∧ cursorIndex c l = some j ∧ ∀ e ∈ l[j + 1]?, dist e.seq c ≠ 1

section
variable {s t : State}

theorem exec_read_of_waitsAtGap (h : WaitsAtGap s.data s.cursor) : exec .read s = .next (finish .notReady s) := by
  by_cases hempty : s.data = []
  · exact exec_read_of_empty hempty
  obtain ⟨c, j, hcursor, hj, hgap⟩ := h.resolve_left hempty
  rw [exec_read_of_cursor hempty hcursor, hj, Option.elim_some]
  cases hnext : s.data[j + 1]? with
  | none => rw [readAfter_of_tail hnext]
  | some e => rw [readAfter_of_entry hnext, if_pos (hgap e hnext)]

theorem deliver_ne_notReady (e : Packet) (s : State) : deliver e s ≠ finish .notReady s := by
  intro h
  have hresponse := congrArg State.response h
  rw [(deliver_answered e s).1, finish_response] at hresponse
  cases hresponse

theorem waitsAtGap_of_exec_read (h : exec .read s = .next (finish .notReady s)) : WaitsAtGap s.data s.cursor := by
  refine or_iff_not_imp_left.2 fun hempty => ?_
  cases hcursor : s.cursor with
  | none =>
    obtain ⟨front, rest, hdata⟩ := List.exists_cons_of_ne_nil hempty
    rw [exec_read_of_no_cursor hdata hcursor, Host.Outcome.next.injEq] at h
    exact absurd h (deliver_ne_notReady front s)
  | some c =>
    rw [exec_read_of_cursor hempty hcursor] at h
    cases hj : cursorIndex c s.data with
    | none => rw [hj] at h; cases h
    | some j =>
      rw [hj, Option.elim_some, Host.Outcome.next.injEq] at h
      refine ⟨c, j, rfl, hj, fun e hnext hone => ?_⟩
      rw [readAfter_of_entry hnext, if_neg (not_not.2 hone)] at h
      exact deliver_ne_notReady e s h

/-! ### What a command can do to the store (R161, R190) -/

/-- With no room `ENQ.DATA` fails a test before it inserts (R161). -/
theorem exec_enqData_of_full {buf : List Byte} (hfull : s.params.dataMax ≤ s.dataCount)
    (h : exec (.enqData buf) s = .next t) : SamePersistent s t := by
  obtain ⟨u, hu, hresult⟩ := enqDataResult buf s (le_pktMax_of_withBuffer h)
  obtain rfl := Host.Outcome.next.inj (hu.symm.trans h)
  dsimp only at hresult
  rw [if_pos (c := s.dataCount ≥ s.params.dataMax) hfull] at hresult
  split_ifs at hresult
  all_goals exact hresult.2

/-- Only `READ` and `ENQ.DATA` write the list, its count or the cursor; the one waits, the other finds no room. -/
theorem exec_keeps_fullStore {i : Instr} (hfull : s.params.dataMax ≤ s.dataCount)
    (hgap : WaitsAtGap s.data s.cursor) (h : exec i s = .next t) :
    t.data = s.data ∧ t.dataCount = s.dataCount ∧ t.cursor = s.cursor := by
  cases i with
  | read =>
    obtain rfl := Host.Outcome.next.inj ((exec_read_of_waitsAtGap hgap).symm.trans h)
    exact ⟨finish_data _ _, finish_dataCount _ _, finish_cursor _ _⟩
  | enqData buf =>
    obtain ⟨hdata, hdataCount, -, -, hcursor⟩ := exec_enqData_of_full hfull h
    exact ⟨hdata, hdataCount, hcursor⟩
  | _ =>
    obtain ⟨-, hcursor, hdata, -⟩ := whoWritesTheStores _ _ _ h
    obtain ⟨hdata, hdataCount⟩ := hdata nofun nofun
    exact ⟨hdata, hdataCount, hcursor nofun⟩

/-! ### Steps and runs without reset (R244) -/

/-- The state holds this DATA list, count and cursor, the list is full, and the host is going to present no reset at the
boundary where the block stands. -/
def FullWith (l : List Packet) (n : Nat) (cursor : Option SeqNum) (s : State) : Prop :=
  (s.data = l ∧ s.dataCount = n ∧ s.cursor = cursor) ∧ s.params.dataMax ≤ n ∧ s.phase = .port ∧
    ∀ e ∈ s.pending, e ≠ .reset

/-- At a boundary with no reset to come, a step rests or runs the command presented first. -/
theorem step_without_reset (hphase : s.phase = .port) (hreset : ∀ e ∈ s.pending, e ≠ .reset) (h : step s = .next t) :
    t = s ∨ ∃ frame events i, s.pending = .command frame :: events ∧ i.slot = .port ∧
      exec i (s.setPending events) = .next t := by
  have hport : portStep s = .next t := by rwa [step, if_pos (legal_of_step_next h), hphase] at h
  unfold portStep at hport
  split at hport
  · exact .inl (Host.Outcome.next.inj hport).symm
  · rename_i hpending
    exact absurd rfl (hreset .reset (hpending ▸ List.mem_cons_self))
  · rename_i frame events hpending
    obtain ⟨i, more, hdecode, hexec⟩ | ⟨e, hbad⟩ := runAt_next hport
    · exact .inr ⟨frame, events, i, hpending, decodePort_slot hdecode, hexec⟩
    · exact absurd hbad refuseBytes_ne_next

theorem step_keeps_fullWith {l : List Packet} {n : Nat} {cursor : Option SeqNum} (hgap : WaitsAtGap l cursor)
    (hs : FullWith l n cursor s) (h : step s = .next t) : FullWith l n cursor t := by
  have ⟨⟨hdata, hdataCount, hcursor⟩, hfull, hphase, hreset⟩ := hs
  obtain rfl | ⟨frame, events, i, hpending, hport, hexec⟩ := step_without_reset hphase hreset h
  · exact hs
  subst hdata hdataCount hcursor
  obtain ⟨⟨hparams, hkept⟩, -⟩ := whoWritesTheStores _ _ _ hexec
  rw [State.setPending_pending] at hkept
  refine ⟨exec_keeps_fullStore (s := s.setPending events) hfull hgap hexec, hparams ▸ hfull,
    (atBoundary_of_exec hport hexec).1, fun e he => hreset e ?_⟩
  rw [hpending]
  exact List.mem_cons_of_mem _ (hkept ▸ he)

end

/-- Settles O37: every step keeps the full store and the cursor, and on these alone `READ` decides that it waits. -/
theorem fullStoreBehindGapIsLocked : Obligations.FullStoreBehindGapIsLocked := by
  intro s hphase hfull ⟨u, hread, hresponse⟩ hreset k t hrun
  obtain rfl := (readAnswers_of_exec hread).notReady hresponse rfl
  have hgap := waitsAtGap_of_exec_read hread
  have hstart : FullWith s.data s.dataCount s.cursor s := ⟨⟨rfl, rfl, rfl⟩, hfull, hphase, hreset⟩
  obtain ⟨⟨hdata, hdataCount, hcursor⟩, -⟩ :=
    runSteps_keeps (fun _ _ => step_keeps_fullWith hgap) k s t hstart hrun
  rw [← hdata, ← hcursor] at hgap
  exact ⟨hdata, hdataCount, hcursor, _, exec_read_of_waitsAtGap hgap, finish_response t .notReady⟩

end Sys2Proof.Machine
